-- ==== Sys2Proof/Word.lean ====
section
/-!
DEFINITION. The widths of the block's values (30_encoding.md R94 to R97, 10_state.md R21, R22). Only names: no
arithmetic of its own, so that every `BitVec` lemma applies as it stands.
-/

namespace Sys2Proof

/-- A command or argument byte of the LCD bus, or a touch command byte (R101, R108). -/
abbrev Byte := BitVec 8

/-- A 16-bit word of the parallel bus, a pixel, a window bound, or the margin (R69, R94, R106). -/
abbrev Half := BitVec 16

/-- A RawSample or a FilteredSample, 0 .. 4095 (R97). -/
abbrev Raw := BitVec 12

/-- A 16.16 fixed-point scale (read unsigned, R95) or an offset (read signed, R22). -/
abbrev Word := BitVec 32

/-- OrientationFlags: bit 0 SwapXY, bit 1 ReverseX, bit 2 ReverseY (R96). -/
abbrev Ori := BitVec 3

end Sys2Proof
end

