-- ==== Sys2Proof/Config.lean ====
section
/-!
DEFINITION. What an implementation fixes: every OPEN parameter of 00_scope.md R9 to R13 (92_eei_decisions.md section 2)
and the flush-complete callback (44_host_interface.md R264), as one record of plain data; what a legal configuration is
(70_reset_and_hazards.md R312 H6); and the model's FREE VALUES, opaque constants with no body, of which nothing can be
proved: the configuration of the machine at hand, the registers that nothing has written since reset, and the
environment's answers.
-/

namespace Sys2Proof

/-- What the host's callback does when LCD.FLUSH calls it (R264). The body is host code and is not modelled; only the
three ways it can matter to the block are told apart: it returns (premise H7 of R312), it issues an operation of the
block while the Flush still runs (R283), or it never returns (93_implementation_defined.md V17). -/
inductive Callback where
  | returns
  | issuesOperation
  | neverReturns
  deriving DecidableEq, Repr, Inhabited

/-- `POL_<line>` (R13): whether the asserted level of a control line is physically high. The strobe, the clock, the
data-out line and the data lines are physical already (R18). -/
structure Polarity where
  lRst : Bool
  lCs  : Bool
  lDc  : Bool
  lLe  : Bool
  tCs  : Bool
  tRdy : Bool
  deriving DecidableEq, Repr, Inhabited

/-- The lower bounds of R12, as the numbers the platform's delay capability is calibrated for. No rule reads one of
them (R322): an event carries the NAME of its bound. -/
structure Durations where
  tStrobeLow  : Nat
  tLatchSetup : Nat
  tTouchBit   : Nat
  tRstHold    : Nat
  tRstRelease : Nat
  dlyS1  : Nat
  dlyS2  : Nat
  dlyS3  : Nat
  dlyS4  : Nat
  dlyS5  : Nat
  dlyS6  : Nat
  dlyS7  : Nat
  dlyS8  : Nat
  dlyS9  : Nat
  dlyS10 : Nat
  dlyS11 : Nat
  dlyS12 : Nat
  dlyS13 : Nat
  deriving DecidableEq, Repr, Inhabited

/-- Every OPEN parameter of the block (R9 to R13), under the spec's own names. -/
structure Config where
  /-- `PANEL_W`, `PANEL_H` (R9). -/
  panelW : Nat
  panelH : Nat
  /-- `RING_N`, `TOL`, `MAX_ATTEMPTS`, `RESP_SKIP` (R10). -/
  ringN       : Nat
  tol         : Nat
  maxAttempts : Nat
  respSkip    : Nat
  /-- The fifteen LCD command codes (R11, R104). -/
  cmdPllMult   : Byte
  cmdPllCtrl   : Byte
  cmdSoftReset : Byte
  cmdPclkDiv   : Byte
  cmdPanelSpec : Byte
  cmdHsync     : Byte
  cmdVsync     : Byte
  cmdGpioMode  : Byte
  cmdPixelIf   : Byte
  cmdColAddr   : Byte
  cmdRowAddr   : Byte
  cmdMemWrite  : Byte
  cmdDisplayOn : Byte
  cmdBlPwm     : Byte
  cmdDynBl     : Byte
  /-- The three touch command bytes (R11, R111). -/
  cmdTouchX  : Byte
  cmdTouchY  : Byte
  cmdTouchPd : Byte
  /-- The OPEN argument lists (R11, R105). -/
  argsPllMult   : List Byte
  argsPllEnable : List Byte
  argsPllSwitch : List Byte
  argsPclkDiv   : List Byte
  argsPanelSpec : List Byte
  argsHsync     : List Byte
  argsVsync     : List Byte
  argsGpioMode  : List Byte
  argsPixelIf   : List Byte
  argsBlPwm     : List Byte
  /-- Timing bounds (R12), options (R13), polarities (R13), the callback (R264). -/
  durations   : Durations
  clearOnInit : Bool
  clearColor  : Half
  pol         : Polarity
  callback    : Callback
  deriving DecidableEq, Repr, Inhabited

namespace Config

/-- The LCD command set in the order of R104. -/
def lcdCommands (c : Config) : List Byte :=
  [c.cmdPllMult, c.cmdPllCtrl, c.cmdSoftReset, c.cmdPclkDiv, c.cmdPanelSpec, c.cmdHsync, c.cmdVsync, c.cmdGpioMode,
    c.cmdPixelIf, c.cmdColAddr, c.cmdRowAddr, c.cmdMemWrite, c.cmdDisplayOn, c.cmdBlPwm, c.cmdDynBl]

/-- The touch command set in the order of R111. -/
def touchCommands (c : Config) : List Byte := [c.cmdTouchX, c.cmdTouchY, c.cmdTouchPd]

/-- A legal configuration: the constraints of R9, R10, R11, R12 and of 92_eei_decisions.md section 2 (premise H6 of
R312, V16), and a callback that returns and issues no operation (premise H7). -/
abbrev Legal (c : Config) : Prop :=
  (1 ≤ c.panelW ∧ c.panelW ≤ 65536) ∧ (1 ≤ c.panelH ∧ c.panelH ≤ 65536) ∧
  1 ≤ c.ringN ∧ 1 ≤ c.maxAttempts ∧ c.respSkip ≤ 4 ∧
  c.lcdCommands.Nodup ∧ c.touchCommands.Nodup ∧
  0 < c.durations.tStrobeLow ∧ 0 < c.durations.tLatchSetup ∧ 0 < c.durations.tTouchBit ∧
  c.callback = .returns

/-- A default instantiation from general knowledge of a likely chip pair (93_implementation_defined.md G2, G3, G6,
which the spec allows "as a default instantiation only"), with the source's defaults of R10 and empty argument lists.
PRESUMED. Only `decodeTableWord` uses it, to read an 8-bit row of the opcode table that has no code of its own. -/
def usual : Config where
  panelW := 480
  panelH := 272
  ringN := 8
  tol := 40
  maxAttempts := 16
  respSkip := 2
  cmdPllMult := 0xE2#8
  cmdPllCtrl := 0xE0#8
  cmdSoftReset := 0x01#8
  cmdPclkDiv := 0xE6#8
  cmdPanelSpec := 0xB0#8
  cmdHsync := 0xB4#8
  cmdVsync := 0xB6#8
  cmdGpioMode := 0xB8#8
  cmdPixelIf := 0xF0#8
  cmdColAddr := 0x2A#8
  cmdRowAddr := 0x2B#8
  cmdMemWrite := 0x2C#8
  cmdDisplayOn := 0x29#8
  cmdBlPwm := 0xBE#8
  cmdDynBl := 0xD0#8
  cmdTouchX := 0xD3#8
  cmdTouchY := 0x93#8
  cmdTouchPd := 0x90#8
  argsPllMult := []
  argsPllEnable := []
  argsPllSwitch := []
  argsPclkDiv := []
  argsPanelSpec := []
  argsHsync := []
  argsVsync := []
  argsGpioMode := []
  argsPixelIf := []
  argsBlPwm := []
  durations := { tStrobeLow := 1, tLatchSetup := 1, tTouchBit := 1, tRstHold := 0, tRstRelease := 0,
                 dlyS1 := 0, dlyS2 := 0, dlyS3 := 0, dlyS4 := 0, dlyS5 := 0, dlyS6 := 0, dlyS7 := 0,
                 dlyS8 := 0, dlyS9 := 0, dlyS10 := 0, dlyS11 := 0, dlyS12 := 0, dlyS13 := 0 }
  clearOnInit := false
  clearColor := 0#16
  pol := { lRst := false, lCs := false, lDc := true, lLe := true, tCs := false, tRdy := false }
  callback := .returns

end Config

/-- The calibration profile (R21, R22). -/
structure Cal where
  scaleX  : Word
  scaleY  : Word
  offsetX : Word
  offsetY : Word
  deriving DecidableEq, Repr, Inhabited

/-- The pixel dimensions the touch mapping targets, each 1 .. 65536 once TCH.INIT has run (R24). -/
structure Dim where
  x : Nat
  y : Nat
  deriving DecidableEq, Repr, Inhabited

/-- The configuration registers the spec gives no reset value (R49). -/
structure TouchRegs where
  cal  : Cal
  ori  : Ori
  tdim : Dim
  deriving DecidableEq, Repr, Inhabited

/-- FREE VALUE: the configuration the host fixed before boot (R303 step 1). Nothing is known of it; a statement that
needs a legal one says so. -/
opaque Config.platform : Config

/-- FREE VALUE: what the configuration registers hold before TCH.INIT. R52: "never zero"; 91_not_in_source.md: do not
assume "that statics are zero before Init". No rule reads them (R49). -/
opaque Config.unwritten : TouchRegs

/-- FREE VALUE: the level the environment gives on `T_DI` at the n-th unsupplied sample (R19). -/
opaque Config.freeTdi : Nat → Bool

/-- FREE VALUE: the level the environment gives on `T_RDY` at the n-th unsupplied sample (R19). -/
opaque Config.freeRdy : Nat → Bool

end Sys2Proof
end

