-- ==== Sys2Proof/Syntax.lean ====
section
/-!
DEFINITION. The abstract syntax: one constructor per row of spec/opcode_table.json. The first twelve are the operations
of 30_encoding.md R92; four are the reserved select codes (R114); the rest are the frames an operation puts on its two
buses: LCD command frames (R101, R104), touch command bytes (R108, R111) and pixel writes (R100, R103).
-/

namespace Sys2Proof

/-- Format `CH` (R99). -/
inductive Channel where
  | x
  | y
  deriving DecidableEq, Repr, Inhabited

/-- Format `REG`, a FrameRegion: four signed 16-bit coordinates, both corners inclusive (R93). -/
structure Region where
  x1 : Half
  y1 : Half
  x2 : Half
  y2 : Half
  deriving DecidableEq, Repr, Inhabited

/-- One constructor per row of the opcode table. RAW operands and dimensions are natural numbers, because a host can
give one outside its format, which R116 refuses; an ORI operand sits in a carrier of eight bits, of which R115 reads
three. A command frame carries its argument bytes (R101): the commands with one list in R104 take that list where none is
given, and a window command has the bytes of its two bounds (R106). -/
inductive Instr where
  -- the twelve operations (R92)
  | btpPulse
  | btpWlb (value : Half)
  | lcdInit
  | lcdFlush (region : Region) (buf : List Half)
  | tchInit (dimX dimY : Nat) (flags : Byte)
  | tchReadch (ch : Channel)
  | tchDenoise (ch : Channel)
  | tchPoll
  | mapOrient (rawX rawY : Nat) (flags : Byte)
  | mapApplycal (value : Nat) (scale : Word) (offset : Word) (dimension : Nat)
  | mapCalibrate (xlow xhigh ylow yhigh : Nat) (margin : Half)
  | sysTick
  -- the reserved select codes (R114)
  | reservedC
  | reservedD
  | reservedE
  | reservedF
  -- LCD command frames (R104): the arguments of R104, unless others are given (R101)
  | cmdPllMult (args : Option (List Byte) := none)
  | cmdPllCtrl (args : List Byte)
  | cmdSoftReset (args : Option (List Byte) := none)
  | cmdPclkDiv (args : Option (List Byte) := none)
  | cmdPanelSpec (args : Option (List Byte) := none)
  | cmdHsync (args : Option (List Byte) := none)
  | cmdVsync (args : Option (List Byte) := none)
  | cmdGpioMode (args : Option (List Byte) := none)
  | cmdPixelIf (args : Option (List Byte) := none)
  | cmdColAddr (lo hi : List Byte)
  | cmdRowAddr (lo hi : List Byte)
  | cmdMemWrite (args : Option (List Byte) := none)
  | cmdDisplayOn (args : Option (List Byte) := none)
  | cmdBlPwm (args : Option (List Byte) := none)
  | cmdDynBl (args : List Byte)
  -- touch command bytes (R111)
  | cmdTouchX
  | cmdTouchY
  | cmdTouchPd
  -- pixel writes (R100, R103)
  | lcdPix (p : Half)
  | lcdRpt
  deriving DecidableEq, Repr, Inhabited

end Sys2Proof
end

