-- ==== Sys2Proof/WellFormed.lean ====
section
/-!
DEFINITION. Which instructions have their operands inside their formats (30_encoding.md R92 to R99, R104, R106). An
operation that is not well formed is refused by name (R116, R276); a command frame that is not is none the block sends
(R104), and is put on the bus as the bytes it is (R101, log entry 7).
-/

namespace Sys2Proof

/-- A RAW operand: 0 .. 4095 (R97). -/
def rawOk (v : Nat) : Bool := v ≤ 4095

/-- A dimension operand: 1 .. 65536 (R24, R92). -/
def dimOk (d : Nat) : Bool := 1 ≤ d && d ≤ 65536

/-- The bytes of the two bounds of a window command: two each, high byte first, the first bound not above the second
(R106). -/
def boundsOk (lo hi : List Byte) : Bool :=
  match lo, hi with
  | [a, b], [d, e] => 256 * a.toNat + b.toNat ≤ 256 * d.toNat + e.toNat
  | _, _ => false

/-- The argument lists the block sends with `CMD_PLL_CTRL`: one at step S2, one at step S3 (R104). -/
def pllArgsOk (c : Config) (args : List Byte) : Bool := args == c.argsPllEnable || args == c.argsPllSwitch

/-- Operands inside their formats. Everything not checked here is in its format by its type. -/
def Instr.wf (c : Config) : Instr → Bool
  | .tchInit dimX dimY _ => dimOk dimX && dimOk dimY
  | .mapOrient rawX rawY _ => rawOk rawX && rawOk rawY
  | .mapApplycal value _ _ dimension => rawOk value && dimOk dimension
  | .mapCalibrate xlow xhigh ylow yhigh _ => rawOk xlow && rawOk xhigh && rawOk ylow && rawOk yhigh
  | .cmdPllCtrl args => pllArgsOk c args
  | .cmdPllMult args | .cmdSoftReset args | .cmdPclkDiv args | .cmdPanelSpec args | .cmdHsync args | .cmdVsync args
  | .cmdGpioMode args | .cmdPixelIf args | .cmdMemWrite args | .cmdDisplayOn args | .cmdBlPwm args => args == none
  | .cmdColAddr lo hi | .cmdRowAddr lo hi => boundsOk lo hi
  | .btpPulse | .btpWlb _ | .lcdInit | .lcdFlush _ _ | .tchReadch _ | .tchDenoise _ | .tchPoll | .sysTick
  | .reservedC | .reservedD | .reservedE | .reservedF
  | .cmdDynBl _ | .cmdTouchX | .cmdTouchY | .cmdTouchPd | .lcdPix _ | .lcdRpt => true

end Sys2Proof
end

