-- ==== Sys2Proof/Decode.lean ====
section
/-!
DEFINITION. What a host presents to the block (`Call`), the decoder, total on every call and rejecting by name, and the
encoder, both from the tables of 30_encoding.md. An OP call is the 4-bit select code and the operand ports (R91:
"Operands are not packed into a word: each is its own port of its own type"); an LCF call is the bytes of a command
frame (R101); a TCB call is one command byte (R108); an LBW call is the 17-bit bus word `{L_DC, DL[15:0]}` of a write
(R100), and a repeat-strobe has no bits of its own (R103).
-/

namespace Sys2Proof

/-- `v[15:8]` (R106). -/
def hiByte (v : Half) : Byte := v.extractLsb' 8 8

/-- `v[7:0]` (R106). -/
def loByte (v : Half) : Byte := v.extractLsb' 0 8

/-- The four argument bytes of a window bound pair, in bus order (R106). -/
def boundBytes (lo hi : Half) : List Byte := [hiByte lo, loByte lo, hiByte hi, loByte hi]

/-- The CH bit: 0 = X, 1 = Y (R99). -/
def channelOfBit (b : Bool) : Channel := if b then .y else .x

/-- The CH bit of a channel (R99). -/
def bitOfChannel : Channel → Bool
  | .x => false
  | .y => true

/-- The operand ports of all operations (R91, R92). An operation reads the ports of its own signature and no other. -/
structure Ports where
  value  : Half
  region : Region
  buf    : List Half
  dimX   : Nat
  dimY   : Nat
  flags  : Byte
  ch     : Bool
  rawX   : Nat
  rawY   : Nat
  raw    : Nat
  scale  : Word
  offset : Word
  dim    : Nat
  xlow   : Nat
  xhigh  : Nat
  ylow   : Nat
  yhigh  : Nat
  margin : Half
  deriving DecidableEq, Repr, Inhabited

/-- Every port at zero, the buffer empty. -/
def Ports.zero : Ports where
  value := 0#16
  region := { x1 := 0#16, y1 := 0#16, x2 := 0#16, y2 := 0#16 }
  buf := []
  dimX := 0
  dimY := 0
  flags := 0#8
  ch := false
  rawX := 0
  rawY := 0
  raw := 0
  scale := 0#32
  offset := 0#32
  dim := 0
  xlow := 0
  xhigh := 0
  ylow := 0
  yhigh := 0
  margin := 0#16

/-- What a host presents at an issue, one constructor per format of the opcode table (R90). -/
inductive Call where
  /-- Format OP: the select code and the ports (R91). -/
  | op (select : BitVec 4) (ports : Ports)
  /-- Format LCF: the command byte, then its argument bytes in bus order (R101). -/
  | lcf (code : Byte) (args : List Byte)
  /-- Format TCB: one touch command byte (R108). -/
  | tcb (code : Byte)
  /-- Format LBW: `{L_DC, DL[15:0]}`, a write that latches, of a pixel or of a command (R100). -/
  | lbw (word : BitVec 17)
  /-- A repeat-strobe: no bits (R103). -/
  | repeatStrobe
  deriving DecidableEq, Repr, Inhabited

/-- Why the decoder rejects a call: it names nothing the block ever issues. -/
inductive Reject where
  /-- An LCD command code outside the fifteen of R104 (R65, R117). -/
  | notAnLcdCommand
  /-- A touch command byte outside the three of R111 (R118). -/
  | notATouchCommand
  deriving DecidableEq, Repr, Inhabited

/-- Format OP: the select-code table of R92 and R114. -/
def decodeOp (select : BitVec 4) (p : Ports) : Instr :=
  match select.toNat with
  | 0x0 => .btpPulse
  | 0x1 => .btpWlb p.value
  | 0x2 => .lcdInit
  | 0x3 => .lcdFlush p.region p.buf
  | 0x4 => .tchInit p.dimX p.dimY p.flags
  | 0x5 => .tchReadch (channelOfBit p.ch)
  | 0x6 => .tchDenoise (channelOfBit p.ch)
  | 0x7 => .tchPoll
  | 0x8 => .mapOrient p.rawX p.rawY p.flags
  | 0x9 => .mapApplycal p.raw p.scale p.offset p.dim
  | 0xA => .mapCalibrate p.xlow p.xhigh p.ylow p.yhigh p.margin
  | 0xB => .sysTick
  | 0xC => .reservedC
  | 0xD => .reservedD
  | 0xE => .reservedE
  | _   => .reservedF  -- 0xF: four bits hold nothing larger

/-- The argument operand of a command whose list in R104 is `own`: none where the bytes are those. -/
def givenArgs (own args : List Byte) : Option (List Byte) := if args = own then none else some args

/-- Format LCF: the command table of R104, in its order, against the configuration's codes. A frame is a command and its
argument bytes, whatever they are (R101): which of them an operation sends is `Instr.wf` (log entry 7). -/
def decodeLcf (c : Config) (code : Byte) (args : List Byte) : Except Reject Instr :=
  if code = c.cmdPllMult then .ok (.cmdPllMult (givenArgs c.argsPllMult args))
  else if code = c.cmdPllCtrl then .ok (.cmdPllCtrl args)
  else if code = c.cmdSoftReset then .ok (.cmdSoftReset (givenArgs [] args))
  else if code = c.cmdPclkDiv then .ok (.cmdPclkDiv (givenArgs c.argsPclkDiv args))
  else if code = c.cmdPanelSpec then .ok (.cmdPanelSpec (givenArgs c.argsPanelSpec args))
  else if code = c.cmdHsync then .ok (.cmdHsync (givenArgs c.argsHsync args))
  else if code = c.cmdVsync then .ok (.cmdVsync (givenArgs c.argsVsync args))
  else if code = c.cmdGpioMode then .ok (.cmdGpioMode (givenArgs c.argsGpioMode args))
  else if code = c.cmdPixelIf then .ok (.cmdPixelIf (givenArgs c.argsPixelIf args))
  else if code = c.cmdColAddr then .ok (.cmdColAddr (args.take 2) (args.drop 2))
  else if code = c.cmdRowAddr then .ok (.cmdRowAddr (args.take 2) (args.drop 2))
  else if code = c.cmdMemWrite then .ok (.cmdMemWrite (givenArgs [] args))
  else if code = c.cmdDisplayOn then .ok (.cmdDisplayOn (givenArgs [] args))
  else if code = c.cmdBlPwm then .ok (.cmdBlPwm (givenArgs c.argsBlPwm args))
  else if code = c.cmdDynBl then .ok (.cmdDynBl args)
  else .error .notAnLcdCommand

/-- Format TCB: the three bytes of R111. -/
def decodeTcb (c : Config) (code : Byte) : Except Reject Instr :=
  if code = c.cmdTouchX then .ok .cmdTouchX
  else if code = c.cmdTouchY then .ok .cmdTouchY
  else if code = c.cmdTouchPd then .ok .cmdTouchPd
  else .error .notATouchCommand

/-- Format LBW (R100). A word with `L_DC` = 1 is a pixel write of the other sixteen bits: an argument write puts the same
word on the bus, but the opcode table gives the word to LcdPix ("L_DC=1, latch rewritten"), an argument byte being part of
a command frame (R101). A word with `L_DC` = 0 is a command write, its data lines `zext_16` of the command, here a frame
with no argument byte. Both readings are DEDUCED, log entry 21. -/
def decodeLbw (c : Config) (word : BitVec 17) : Except Reject Instr :=
  if word.getLsbD 16 then .ok (.lcdPix (word.extractLsb' 0 16))
  else if word.extractLsb' 8 8 = 0#8 then decodeLcf c (word.extractLsb' 0 8) []
  else .error .notAnLcdCommand

/-- The decoder, total on every call. -/
def decode (c : Config) : Call → Except Reject Instr
  | .op select ports => .ok (decodeOp select ports)
  | .lcf code args => decodeLcf c code args
  | .tcb code => decodeTcb c code
  | .lbw word => decodeLbw c word
  | .repeatStrobe => .ok .lcdRpt

/-- The encoder: the call that stands for an instruction, written from the same tables (R92, R104, R111, R100). -/
def encode (c : Config) : Instr → Call
  | .btpPulse => .op 0x0#4 .zero
  | .btpWlb value => .op 0x1#4 { Ports.zero with value := value }
  | .lcdInit => .op 0x2#4 .zero
  | .lcdFlush region buf => .op 0x3#4 { Ports.zero with region := region, buf := buf }
  | .tchInit dimX dimY flags => .op 0x4#4 { Ports.zero with dimX := dimX, dimY := dimY, flags := flags }
  | .tchReadch ch => .op 0x5#4 { Ports.zero with ch := bitOfChannel ch }
  | .tchDenoise ch => .op 0x6#4 { Ports.zero with ch := bitOfChannel ch }
  | .tchPoll => .op 0x7#4 .zero
  | .mapOrient rawX rawY flags => .op 0x8#4 { Ports.zero with rawX := rawX, rawY := rawY, flags := flags }
  | .mapApplycal value scale offset dimension =>
      .op 0x9#4 { Ports.zero with raw := value, scale := scale, offset := offset, dim := dimension }
  | .mapCalibrate xlow xhigh ylow yhigh margin =>
      .op 0xA#4 { Ports.zero with xlow := xlow, xhigh := xhigh, ylow := ylow, yhigh := yhigh, margin := margin }
  | .sysTick => .op 0xB#4 .zero
  | .reservedC => .op 0xC#4 .zero
  | .reservedD => .op 0xD#4 .zero
  | .reservedE => .op 0xE#4 .zero
  | .reservedF => .op 0xF#4 .zero
  | .cmdPllMult args => .lcf c.cmdPllMult (args.getD c.argsPllMult)
  | .cmdPllCtrl args => .lcf c.cmdPllCtrl args
  | .cmdSoftReset args => .lcf c.cmdSoftReset (args.getD [])
  | .cmdPclkDiv args => .lcf c.cmdPclkDiv (args.getD c.argsPclkDiv)
  | .cmdPanelSpec args => .lcf c.cmdPanelSpec (args.getD c.argsPanelSpec)
  | .cmdHsync args => .lcf c.cmdHsync (args.getD c.argsHsync)
  | .cmdVsync args => .lcf c.cmdVsync (args.getD c.argsVsync)
  | .cmdGpioMode args => .lcf c.cmdGpioMode (args.getD c.argsGpioMode)
  | .cmdPixelIf args => .lcf c.cmdPixelIf (args.getD c.argsPixelIf)
  | .cmdColAddr lo hi => .lcf c.cmdColAddr (lo ++ hi)
  | .cmdRowAddr lo hi => .lcf c.cmdRowAddr (lo ++ hi)
  | .cmdMemWrite args => .lcf c.cmdMemWrite (args.getD [])
  | .cmdDisplayOn args => .lcf c.cmdDisplayOn (args.getD [])
  | .cmdBlPwm args => .lcf c.cmdBlPwm (args.getD c.argsBlPwm)
  | .cmdDynBl args => .lcf c.cmdDynBl args
  | .cmdTouchX => .tcb c.cmdTouchX
  | .cmdTouchY => .tcb c.cmdTouchY
  | .cmdTouchPd => .tcb c.cmdTouchPd
  | .lcdPix p => .lbw (1#1 ++ p)
  | .lcdRpt => .repeatStrobe

/-- The call a word of the opcode table stands for, operand ports and argument bytes zero. A word below 16 in an 8-bit
row is a select code (format OP); any other 8-bit word is a command byte, read against the default codes of
`Config.usual`, since the table's own codes are OPEN. PRESUMED (log entry 10). -/
def callOfTableWord (nbits w : Nat) : Option Call :=
  if nbits = 0 then (if w = 0 then some .repeatStrobe else none)
  else if nbits ≤ 8 then
    if w < 16 then some (.op (BitVec.ofNat 4 w) .zero)
    else if w < 256 then
      let code : Byte := BitVec.ofNat 8 w
      if code = Config.usual.cmdColAddr || code = Config.usual.cmdRowAddr then some (.lcf code [0#8, 0#8, 0#8, 0#8])
      else if Config.usual.lcdCommands.contains code then some (.lcf code [])
      else some (.tcb code)
    else none
  else if nbits ≤ 24 then (if w < 131072 then some (.lbw (BitVec.ofNat 17 w)) else none)
  else none

/-- The instruction the decoder reads from a word of the opcode table; `none` where it rejects. -/
def decodeTableWord (nbits w : Nat) : Option Instr :=
  match callOfTableWord nbits w with
  | none => none
  | some call =>
    match decode Config.usual call with
    | .ok i => some i
    | .error _ => none

end Sys2Proof
end

