-- ==== Sys2Proof/Machine/Events.lean ====
section
/-!
DEFINITION. The two event alphabets (00_scope.md R17, R18), the words a strobe delivers (30_encoding.md R100), and what an
operation hands back (R92, R98).
-/

namespace Sys2Proof.Machine

/-- The millisecond-class bounds of R12. -/
inductive DelayName where
  | tRstHold | tRstRelease
  | dlyS1 | dlyS2 | dlyS3 | dlyS4 | dlyS5 | dlyS6 | dlyS7 | dlyS8 | dlyS9 | dlyS10 | dlyS11 | dlyS12 | dlyS13
  deriving DecidableEq, Repr, Inhabited

/-- The nanosecond-class bounds of R12. -/
inductive SpinName where
  | tStrobeLow | tLatchSetup | tTouchBit
  deriving DecidableEq, Repr, Inhabited

/-- Level F, the LCD events of R17; `flushDone` is the flush-complete callback. `lcdWrite` is the model's own: the "one
write of `value`, kind given by `st.pin.L_DC`" of R134, for a BTP.WLB issued directly while `L_DC` is not 1; R17 has no
event for it, since its command write carries a byte and drives `L_DC` itself (log entry 8). -/
inductive LcdEvent where
  | pinSetup
  | lcdReset
  | lcdSel
  | lcdDesel
  | lcdCmd (c : Byte)
  | lcdData (d : Byte)
  | lcdPix (p : Half)
  | lcdRpt
  | lcdWrite (dc : Option Bool) (value : Half)
  | delayMs (name : DelayName)
  | flushDone
  deriving DecidableEq, Repr, Inhabited

/-- Level F, the touch events of R17. -/
inductive TchEvent where
  | tchSetup
  | tchSel
  | tchDesel
  | tchXchg (c : Byte) (r : Raw)
  | tchReady (b : Bool)
  deriving DecidableEq, Repr, Inhabited

/-- The level-F alphabet (R17). -/
inductive EventF where
  | lcd (e : LcdEvent)
  | tch (e : TchEvent)
  deriving DecidableEq, Repr, Inhabited

/-- The one-bit output lines of R38. -/
inductive OutLine where
  | lRst | lCs | lDc | lWr | lLe | tCs | tClk | tDo
  deriving DecidableEq, Repr, Inhabited

/-- The input lines of R37. -/
inductive InLine where
  | tDi | tRdy
  deriving DecidableEq, Repr, Inhabited

/-- The level-P alphabet (R18). -/
inductive EventP where
  | set (line : OutLine) (v : Bool)
  | setData (v : Half)
  | get (line : InLine) (v : Bool)
  | spin (name : SpinName)
  | sleepMs (name : DelayName)
  | config
  | callback
  deriving DecidableEq, Repr, Inhabited

/-- Whether a strobe followed a latching write or repeats the latched value (R100, "kind"). -/
inductive StrobeKind where
  | latched
  | repeated
  deriving DecidableEq, Repr, Inhabited

/-- What the controller receives at one strobe (R42, format LBW of R100): `L_DC`, the latched value, the kind. -/
structure BusWord where
  dc    : Bool
  value : Half
  kind  : StrobeKind
  deriving DecidableEq, Repr, Inhabited

/-- Format TEV (R98). `x` and `y` are absent when not pressed (R208). -/
structure TouchEvent where
  pressed : Bool
  x       : Option Nat
  y       : Option Nat
  again   : Bool  -- the field the spec calls `repeat`
  deriving DecidableEq, Repr, Inhabited

/-- The results an operation hands back (R92, R262). -/
inductive Result where
  | nothing
  | raw (r : Raw)
  | rawPair (a b : Raw)
  | pixel (p : Nat)
  | touch (e : TouchEvent) (pair : Option (Raw × Raw))
  deriving DecidableEq, Repr, Inhabited

end Sys2Proof.Machine
end

