-- ==== Sys2Proof/Machine/State.lean ====
section
/-!
DEFINITION. The state of the block (10_state.md), the model's own fields beside it (what the host presents, what the
environment answers, what is observed), the state after reset (R49), and why a step can stop (60_exceptions.md R276).
-/

namespace Sys2Proof.Machine

/-- The sampler state (R28). -/
inductive Fsm where
  | idle | sampling | accepted | bestEffort
  deriving DecidableEq, Repr, Inhabited

/-- The output lines (R38): the value of the most recent `Set`, or no value if there has been none since reset. -/
structure Pins where
  lRst : Option Bool
  lCs  : Option Bool
  lDc  : Option Bool
  lWr  : Option Bool
  lLe  : Option Bool
  dl   : Option Half
  tCs  : Option Bool
  tClk : Option Bool
  tDo  : Option Bool
  deriving DecidableEq, Repr

/-- Pins nothing has configured yet (R49). -/
def Pins.unset : Pins :=
  { lRst := none, lCs := none, lDc := none, lWr := none, lLe := none, dl := none, tCs := none, tClk := none, tDo := none }

/-- LCD working registers (R30). The loop registers hold no value until a row is begun (R52, R160). -/
structure LcdWork where
  cx1   : Int
  cy1   : Int
  cx2   : Int
  cy2   : Int
  fullW : Int
  actW  : Int
  row   : Option Int
  col   : Option Int
  idx   : Option Int
  prev  : Option Half
  deriving DecidableEq, Repr

/-- Working registers of one touch exchange (R31): the command shift register, how many command bits have been sent (the
loop of R193 over `i`, counted up: `i = 7 - sent`; log entry 20), the result shift register and the clock counter of the
response phase. `resSr` and `k` hold no value until R193 writes them (R52). The position of R33 in an exchange is `sent`,
then `k`: neither ever moves backward. -/
structure XchgWork where
  cmdSr : Byte
  sent  : Nat
  resSr : Option Raw
  k     : Option Nat
  deriving DecidableEq, Repr

/-- Working registers of TCH.POLL (R31). Each holds no value until its stage writes it. -/
structure PollWork where
  rx : Option Raw
  ry : Option Raw
  ox : Option Raw
  oy : Option Raw
  px : Option Nat
  py : Option Nat
  deriving DecidableEq, Repr

/-- Working registers of one ApplyCalibration (R32). -/
structure MapWork where
  prod : Nat
  t    : Nat
  p    : Int
  deriving DecidableEq, Repr

/-- Working registers of MAP.CALIBRATE for one axis (R32). -/
structure SpanWork where
  span  : Nat
  range : Nat
  deriving DecidableEq, Repr

/-- The denoising ring as the rules compute with it once it is filled (R199). -/
structure Ring where
  entries : List Raw
  sum     : Nat
  oldest  : Nat
  deriving DecidableEq, Repr

/-- The registers of the denoising ring (R34). `oldest`, `attempt` and `mean` hold no value until R199 writes them (R52). -/
structure RingWork where
  entries : List Raw
  sum     : Nat
  oldest  : Option Nat
  attempt : Option Nat
  mean    : Option Raw
  deriving DecidableEq, Repr

/-- The stages of TCH.POLL (R33). -/
inductive PollStage where
  | firstCheck | sampleX | sampleY | powerDown | secondCheck | mapping
  deriving DecidableEq, Repr

/-- Everything that exists only inside one operation (R20, R30 to R34): working registers, ring, sequencer position.
"No value" (`none`) between operations (R52) is the spec's own state. The position of R33 that is not a field here is
`row`, `col`, `k` (before it the bits sent), the ring's fill count, which is the number of its entries, and `attempt`. -/
structure Work where
  lcd       : Option LcdWork
  xchg      : Option XchgWork
  poll      : Option PollWork
  map       : Option MapWork
  span      : Option SpanWork
  ring      : Option RingWork
  initStep  : Option Nat
  pollStage : Option PollStage
  deriving DecidableEq, Repr

/-- Between operations: no value anywhere (R49, R52). -/
def Work.idle : Work :=
  { lcd := none, xchg := none, poll := none, map := none, span := none, ring := none, initStep := none, pollStage := none }

/-- The state. First the record `st` of R20; then `work`, the state that lives inside one operation; then the model's own
fields: `cfg` (R48: the spec's arguments of the step), `calls` (R260), `tdi`, `rdy`, `asked` (R19), `result` (R262),
`traceF`, `traceP` (R8, R72), `delivered` (R42). -/
structure State where
  cal         : Cal
  ori         : Ori
  tdim        : Dim
  prevPressed : Bool
  lcdReady    : Bool
  tchReady    : Bool
  busy        : Bool
  fsm         : Fsm
  pin         : Pins
  latch       : Option Half
  work        : Work
  cfg         : Config
  calls       : List Call
  tdi         : List Bool
  rdy         : List Bool
  asked       : Nat
  result      : Result
  traceF      : List EventF
  traceP      : List EventP
  delivered   : List BusWord
  deriving DecidableEq, Repr

/-- The state after reset (R49, R300). The configuration registers hold `Config.unwritten`, of which nothing is known
(DESIGN CHOICE, log entry 3); the configuration is `Config.platform` (log entry 1). -/
def State.reset : State where
  cal := Config.unwritten.cal
  ori := Config.unwritten.ori
  tdim := Config.unwritten.tdim
  prevPressed := false
  lcdReady := false
  tchReady := false
  busy := false
  fsm := .idle
  pin := .unset
  latch := none
  work := .idle
  cfg := Config.platform
  calls := []
  tdi := []
  rdy := []
  asked := 0
  result := .nothing
  traceF := []
  traceP := []
  delivered := []

/-- Faults: the machine has no next step. -/
inductive Fault where
  /-- Raised by LCD.FLUSH when the host's callback never returns: the Flush never completes and the block stays busy
  (93_implementation_defined.md V17, `stuck`). Safe: the model stops where the host hangs. -/
  | callbackNeverReturns
  deriving DecidableEq, Repr

/-- Refusals: uses of the block the source gives no meaning (R276). All are safe: the state is left as it was, and a
claim about the block carries the precondition. -/
inductive Refusal where
  /-- `exec`'s arm of an instruction that has no meaning yet. Safe. -/
  | notModelled (mnemonic : String)
  /-- `ReservedOp`: RESERVED_C .. RESERVED_F (R114). Safe. -/
  | reservedOp
  /-- `Busy`: any operation issued while another runs, from the callback of LCD.FLUSH too (R283). Safe. -/
  | busy
  /-- `NotInitialised`: an operation before its unit's Init (R276). Safe. -/
  | notInitialised
  /-- `AlreadyInitialised`: a second LCD.INIT or TCH.INIT (R276). Safe. -/
  | alreadyInitialised
  /-- `OperandRange`: a RAW operand or a dimension outside its format, given to MAP.ORIENT, MAP.APPLYCAL, MAP.CALIBRATE
  or TCH.INIT (R116, R276). Safe. -/
  | operandRange
  /-- `CalibrationRange`: MAP.CALIBRATE with low >= high or a margin too large (R240). Safe. -/
  | calibrationRange
  /-- `NotSelected`: a strobe issued directly while `L_CS` is not asserted (R132). Safe. -/
  | notSelected
  /-- `LatchUnknown`: a bare strobe while the latch's value is unknown (R132). Safe. -/
  | latchUnknown
  /-- `BufferTooShort`: LCD.FLUSH of a non-empty clipped region whose last index is not in the buffer (R64). Safe. -/
  | bufferTooShort
  /-- The decoder rejects the call by name: a code or a byte that the block never issues (R65, R117, R118). Safe. -/
  | notAnEncoding (why : Reject)
  deriving DecidableEq, Repr

/-- The outcome of a step of this machine. -/
abbrev Out := Host.Outcome State Fault Refusal

end Sys2Proof.Machine
end

