-- ==== Sys2Proof/Machine/Flags.lean ====
section
/-!
DEFINITION. Flags and arithmetic. The block has no condition codes (10_state.md): what it has in their place are the
orientation flags (30_encoding.md R96), the acceptance test of a ring (42_touch_sampler.md R200), the checks of
MAP.CALIBRATE (43_coordinate_mapper.md R240), and the exact integer arithmetic of R242: nothing wraps, every narrowing
stands at the end.
-/

namespace Sys2Proof.Machine

/-- The three flags of an ORI operand; bits above bit 2 of the carrier are ignored (R115). -/
def oriOf (flags : Byte) : Ori := flags.extractLsb' 0 3

/-- Bit 0, SwapXY (R96). -/
def swapXY (f : Ori) : Bool := f.getLsbD 0

/-- Bit 1, ReverseX (R96). -/
def reverseX (f : Ori) : Bool := f.getLsbD 1

/-- Bit 2, ReverseY (R96). -/
def reverseY (f : Ori) : Bool := f.getLsbD 2

/-- `4095 - v`: exact, the result is again a RAW (R231, R242). -/
def mirror (v : Raw) : Raw := 4095#12 - v

/-- ApplyOrientation: swap first, then mirror each post-swap axis (R231, R232). -/
def orient (rawX rawY : Raw) (f : Ori) : Raw × Raw :=
  let a := if swapXY f then rawY else rawX
  let b := if swapXY f then rawX else rawY
  (if reverseX f then mirror a else a, if reverseY f then mirror b else b)

/-- `clamp(v, lo, hi)` (R15). -/
def clampInt (v lo hi : Int) : Int := min (max v lo) hi

/-- The working registers of ApplyCalibration: exact product, floor shift, then the offset (R234, R235, R242). -/
def mapWork (value : Raw) (scale offset : Word) : MapWork :=
  let prod := value.toNat * scale.toNat
  let t := prod / 65536
  { prod := prod, t := t, p := (t : Int) - offset.toInt }

/-- ApplyCalibration: truncated, then clamped into [0, dimension-1] (R234, R236, R237). -/
def applyCal (value : Raw) (scale offset : Word) (dimension : Nat) : Nat :=
  (clampInt (mapWork value scale offset).p 0 ((dimension : Int) - 1)).toNat

/-- `(num << 16) / den`, truncated (R113). -/
def ratio (num den : Nat) : Nat := num * 65536 / den

/-- The default scale, `(dim << 16) / 4096` (R113, R212). -/
def defaultScale (dim : Nat) : Word := BitVec.ofNat 32 (ratio dim 4096)

/-- The span and range of one axis of MAP.CALIBRATE (R238). -/
def spanWork (low high margin dim : Nat) : SpanWork := { span := dim - 1 - 2 * margin, range := high - low }

/-- The scale MAP.CALIBRATE writes (R238). -/
def calScale (w : SpanWork) : Nat := ratio w.span w.range

/-- The offset MAP.CALIBRATE writes (R238). -/
def calOffset (low scale margin : Nat) : Int := ((low * scale / 65536 : Nat) : Int) - margin

/-- The precondition of MAP.CALIBRATE on one axis (R240). -/
def axisOk (low high margin dim : Nat) : Bool := decide (low < high) && decide (2 * margin + 1 ≤ dim)

/-- The mean of a ring: floor division (R201). -/
def ringMean (c : Config) (g : Ring) : Nat := g.sum / c.ringN

/-- The acceptance test: every entry within TOL of the mean, inclusive (R200). -/
def ringOk (c : Config) (g : Ring) (mean : Nat) : Bool :=
  g.entries.all fun e => decide (((e.toNat : Int) - mean).natAbs ≤ c.tol)

/-- The physical level of a control line, from its logical level and its polarity (R13, R18). -/
def physicalLevel (p : Polarity) (line : OutLine) (asserted : Bool) : Bool :=
  match line with
  | .lRst => asserted == p.lRst
  | .lCs => asserted == p.lCs
  | .lDc => asserted == p.lDc
  | .lLe => asserted == p.lLe
  | .tCs => asserted == p.tCs
  | .lWr | .tClk | .tDo => asserted

end Sys2Proof.Machine
end

