-- ==== Sys2Proof/Machine/Operands.lean ====
section
/-!
DEFINITION. Every operand form: regions and their clip (41_lcd_controller.md R157), the pixel buffer and its index
(20_memory.md R62, R63), window bounds and command frames (30_encoding.md R106, R121), the channel's command byte (R99),
the bits of a touch command and of its response (R108 to R110), and the run coding of a row (R162).
-/

namespace Sys2Proof.Machine

/-- A clipped region, exact integers (R112). -/
structure Clip where
  cx1 : Int
  cy1 : Int
  cx2 : Int
  cy2 : Int
  deriving DecidableEq, Repr

/-- Clipping to the panel (R157). -/
def clip (c : Config) (r : Region) : Clip where
  cx1 := max r.x1.toInt 0
  cy1 := max r.y1.toInt 0
  cx2 := min r.x2.toInt ((c.panelW : Int) - 1)
  cy2 := min r.y2.toInt ((c.panelH : Int) - 1)

/-- The clipped region is empty (R157). -/
def Clip.isEmpty (k : Clip) : Bool := decide (k.cx1 > k.cx2) || decide (k.cy1 > k.cy2)

/-- The buffer's row stride (R112). -/
def fullWidth (r : Region) : Int := r.x2.toInt - r.x1.toInt + 1

/-- The number of columns inside the clipped region (R112). -/
def Clip.actWidth (k : Clip) : Int := k.cx2 - k.cx1 + 1

/-- The number of rows inside the clipped region. -/
def Clip.rows (k : Clip) : Int := k.cy2 - k.cy1 + 1

/-- The buffer index of panel point (x, y) (R63). -/
def bufIndex (r : Region) (x y : Int) : Int := (y - r.y1.toInt) * fullWidth r + (x - r.x1.toInt)

/-- The buffer holds the largest index the Flush reads, `idx(cx2, cy2)` (R64, R277). -/
def bufferLongEnough (r : Region) (k : Clip) (buf : List Half) : Bool :=
  decide ((buf.length : Int) > bufIndex r k.cx2 k.cy2)

/-- `MemRead(buf, i)` (R62). The default is never read: R277, `bufferLongEnough` is checked first. -/
def memRead (buf : List Half) (i : Int) : Half := buf.getD i.toNat 0#16

/-- A clipped bound as the 16-bit quantity the bus carries (R106). -/
def boundHalf (v : Int) : Half := BitVec.ofInt 16 v

/-- `Cmd(c, args)` (R121). -/
def cmdFrame (code : Byte) (args : List Byte) : List LcdEvent := .lcdCmd code :: args.map .lcdData

/-- The column-address or row-address frame of a bound pair (R106). -/
def boundFrame (code : Byte) (lo hi : Half) : List LcdEvent := cmdFrame code (boundBytes lo hi)

/-- `Window(cx1, cy1, cx2, cy2)` (R106). -/
def window (c : Config) (k : Clip) : List LcdEvent :=
  boundFrame c.cmdColAddr (boundHalf k.cx1) (boundHalf k.cx2) ++
    boundFrame c.cmdRowAddr (boundHalf k.cy1) (boundHalf k.cy2)

/-- The whole panel as a clipped region (R154). -/
def wholePanel (c : Config) : Clip := { cx1 := 0, cy1 := 0, cx2 := (c.panelW : Int) - 1, cy2 := (c.panelH : Int) - 1 }

/-- The pixel write of one pixel: a repeat-strobe exactly when it equals its left neighbour (R162). -/
def pixelEvent (prev : Option Half) (p : Half) : LcdEvent := if prev = some p then .lcdRpt else .lcdPix p

/-- The level-F event of BTP.WLB issued directly (R134): with `L_DC` = 1 the write is that of a new-value pixel, else one
for which R17 has no event (log entry 8). -/
def writeEvent (dc : Option Bool) (v : Half) : LcdEvent := if dc = some true then .lcdPix v else .lcdWrite dc v

/-- The command byte of a channel (R99). -/
def channelCommand (c : Config) : Channel → Byte
  | .x => c.cmdTouchX
  | .y => c.cmdTouchY

/-- Whether `T_DI` is sampled after response clock k: the middle twelve (R109). -/
def sampled (c : Config) (k : Nat) : Bool := decide (c.respSkip < k) && decide (k ≤ c.respSkip + 12)

/-- One command bit on the wire (R193, R194). -/
def commandBit (b : Bool) : List EventP :=
  [.set .tDo b, .spin .tTouchBit, .set .tClk true, .spin .tTouchBit, .set .tClk false]

/-- One response clock, before its sample (R193, R195). -/
def responseClock : List EventP :=
  [.spin .tTouchBit, .set .tClk true, .spin .tTouchBit, .set .tClk false, .spin .tTouchBit]

/-- `(res_sr << 1) | b`, twelve bits (R110). -/
def shiftIn (r : Raw) (b : Bool) : Raw := (r <<< 1) ||| (if b then 1#12 else 0#12)

/-- The bits of a result in the order they arrive, bit 11 first (R110). -/
def responseBits (r : Raw) : List Bool := (List.range 12).map fun i => r.getLsbD (11 - i)

/-- The bits of a command in the order they are sent, `c[7]` first (R108). -/
def commandBits (c : Byte) : List Bool := (List.range 8).map fun i => c.getLsbD (7 - i)

end Sys2Proof.Machine
end

