-- ==== Sys2Proof/Machine/Ops.lean ====
section
/-!
DEFINITION. The shared operations over the state: issuing and completing an operation (44_host_interface.md R260,
60_exceptions.md R283), the two traces (R8), the level-P primitives and the expansion of every LCD event
(40_bus_timing.md R131, R134, R136), sampling the inputs (00_scope.md R19), and the touch exchange
(42_touch_sampler.md R193). There is no exception entry and no return: the block takes none (R270, R280, R281).
-/

namespace Sys2Proof.Machine

/-! ### Writing one register -/

/-- Write `st.busy` (R29). -/
def State.setBusy (s : State) (b : Bool) : State := { s with busy := b }

/-- Write `st.prev_pressed` (R26). -/
def State.setPressed (s : State) (b : Bool) : State := { s with prevPressed := b }

/-- Write `st.lcd_ready` (R27). -/
def State.setLcdReady (s : State) (b : Bool) : State := { s with lcdReady := b }

/-- Write `st.tch_ready` (R27). -/
def State.setTchReady (s : State) (b : Bool) : State := { s with tchReady := b }

/-- Write `st.cal` (R21, R22). -/
def State.setCal (s : State) (c : Cal) : State := { s with cal := c }

/-- Write `st.ori` (R23). -/
def State.setOri (s : State) (f : Ori) : State := { s with ori := f }

/-- Write `st.tdim` (R24). -/
def State.setTdim (s : State) (d : Dim) : State := { s with tdim := d }

/-- Write `st.latch` (R41). -/
def State.setLatch (s : State) (v : Half) : State := { s with latch := some v }

/-- Record words the controller received (R42). -/
def State.deliver (s : State) (ws : List BusWord) : State := { s with delivered := s.delivered ++ ws }

/-- What is left of the supplied answers for `T_DI`. -/
def State.setTdi (s : State) (bs : List Bool) : State := { s with tdi := bs }

/-- What is left of the supplied answers for `T_RDY`. -/
def State.setRdy (s : State) (bs : List Bool) : State := { s with rdy := bs }

/-- One more free answer has been read. -/
def State.countAsk (s : State) : State := { s with asked := s.asked + 1 }

/-- What is left of the host's pending calls (R260). -/
def State.setCalls (s : State) (cs : List Call) : State := { s with calls := cs }

/-! ### Issue and completion -/

/-- Issue (R260): refused while another operation runs (R283); otherwise the operation runs with `busy` set (R29). -/
def issue (s : State) (body : State → Out) : Out :=
  if s.busy then .refused .busy else body (s.setBusy true)

/-- The end of an operation: not busy (R29), the sampler idle (R28), every working register dead (R20, R52), the
results handed back (R262). -/
def State.finish (s : State) (r : Result) : State :=
  { s with busy := false, fsm := .idle, work := .idle, result := r }

/-- Normal completion (R270). -/
def complete (r : Result) (s : State) : Out := .next (s.finish r)

/-- A check of R276: refuse for `why` when `bad` holds, else go on. -/
def refuseIf (bad : Bool) (why : Refusal) (go : Out) : Out := if bad then .refused why else go

/-! ### Working registers -/

/-- The working registers, ring and sequencer position as a whole (R20). -/
def State.setWork (s : State) (w : Work) : State := { s with work := w }

/-- Record, or end the life of, the LCD working registers (R30). -/
def State.setLcd (s : State) (w : Option LcdWork) : State := s.setWork { s.work with lcd := w }

/-- Record, or end the life of, the exchange's working registers (R31). -/
def State.setXchg (s : State) (w : Option XchgWork) : State := s.setWork { s.work with xchg := w }

/-- Record the working registers of TCH.POLL (R31). -/
def State.setPoll (s : State) (w : PollWork) : State := s.setWork { s.work with poll := some w }

/-- Record the working registers of one ApplyCalibration (R32). -/
def State.setMap (s : State) (w : MapWork) : State := s.setWork { s.work with map := some w }

/-- Record span and range of one axis of MAP.CALIBRATE (R32). -/
def State.setSpan (s : State) (w : SpanWork) : State := s.setWork { s.work with span := some w }

/-- Record, or end the life of, the ring (R34). -/
def State.setRing (s : State) (g : Option RingWork) : State := s.setWork { s.work with ring := g }

/-- The sequencer position of LCD.INIT (R33). -/
def State.setInitStep (s : State) (n : Nat) : State := s.setWork { s.work with initStep := some n }

/-- The sequencer position of TCH.POLL (R33). -/
def State.setPollStage (s : State) (p : PollStage) : State := s.setWork { s.work with pollStage := some p }

/-- The sampler state (R28). -/
def State.setFsm (s : State) (f : Fsm) : State := { s with fsm := f }

/-! ### Traces and pins -/

/-- A line takes the value of its most recent `Set` (R38). -/
def Pins.set (p : Pins) (line : OutLine) (v : Bool) : Pins :=
  match line with
  | .lRst => { p with lRst := some v }
  | .lCs => { p with lCs := some v }
  | .lDc => { p with lDc := some v }
  | .lWr => { p with lWr := some v }
  | .lLe => { p with lLe := some v }
  | .tCs => { p with tCs := some v }
  | .tClk => { p with tClk := some v }
  | .tDo => { p with tDo := some v }

/-- What a level-P event does to the output lines (R18, R38). -/
def Pins.apply (p : Pins) (e : EventP) : Pins :=
  match e with
  | .set line v => p.set line v
  | .setData v => { p with dl := some v }
  | .get _ _ | .spin _ | .sleepMs _ | .config | .callback => p

/-- Append a level-F event (R17). -/
def State.emitF (s : State) (e : EventF) : State := { s with traceF := s.traceF ++ [e] }

/-- Append level-P events, each driving its line as it is emitted (R18, R73). -/
def State.emitP (s : State) (es : List EventP) : State :=
  { s with pin := es.foldl Pins.apply s.pin, traceP := s.traceP ++ es }

/-! ### The two bus primitives (40_bus_timing.md) -/

/-- The three events of PulseStrobe (R131). -/
def pulseEvents : List EventP := [.set .lWr false, .spin .tStrobeLow, .set .lWr true]

/-- The four events that latch a value, before the pulse (R134). -/
def latchEvents (v : Half) : List EventP := [.set .lLe true, .setData v, .spin .tLatchSetup, .set .lLe false]

/-- What a strobe delivers to the controller (R42): the latched value, as a command or as data by `L_DC`, while the
controller is selected. -/
def strobeDelivers (s : State) (kind : StrobeKind) : List BusWord :=
  match s.pin.lCs, s.pin.lDc, s.latch with
  | some true, some dc, some v => [{ dc := dc, value := v, kind := kind }]
  | _, _, _ => []

/-- PulseStrobe (R131). -/
def pulse (kind : StrobeKind) (s : State) : State :=
  (s.emitP pulseEvents).deliver (strobeDelivers s kind)

/-- Latch-enable asserted, lines driven, set-up time, negated; the shadow holds the value (R134, R41). -/
def latchValue (v : Half) (s : State) : State := (s.emitP (latchEvents v)).setLatch v

/-- WriteLatchedByte (R134). -/
def writeLatched (v : Half) (s : State) : State := pulse .latched (latchValue v s)

/-! ### LCD events (R136) -/

/-- The level-P work of one LCD event, by the table of R136; every bus write is made of the two primitives (R130). -/
def lcdDrive (e : LcdEvent) (s : State) : State :=
  match e with
  | .pinSetup =>
      s.emitP [.config, .set .lCs false, .set .lWr true, .set .lDc true, .set .lLe false, .set .lRst false]
  | .lcdReset => s.emitP [.set .lRst true, .sleepMs .tRstHold, .set .lRst false, .sleepMs .tRstRelease]
  | .lcdSel => s.emitP [.set .lCs true]
  | .lcdDesel => s.emitP [.set .lCs false]
  | .lcdCmd c => (writeLatched (c.setWidth 16) (s.emitP [.set .lDc false])).emitP [.set .lDc true]
  | .lcdData d => writeLatched (d.setWidth 16) s
  | .lcdPix p => writeLatched p s
  | .lcdRpt => pulse .repeated s
  | .lcdWrite _ v => writeLatched v s
  | .delayMs n => s.emitP [.sleepMs n]
  | .flushDone => s.emitP [.callback]

/-- One LCD event at both levels. -/
def lcdEvent (s : State) (e : LcdEvent) : State := lcdDrive e (s.emitF (.lcd e))

/-- LCD events in order, each complete before the next begins (R73). -/
def lcdEvents (es : List LcdEvent) (s : State) : State := es.foldl lcdEvent s

/-! ### Inputs (R19) -/

/-- One sample of `T_DI`: the answer supplied next, or a free one. -/
def sampleTdi (s : State) : Bool × State :=
  match s.tdi with
  | b :: rest => (b, s.setTdi rest)
  | [] => (Config.freeTdi s.asked, s.countAsk)

/-- One sample of `T_RDY`: the answer supplied next, or a free one. -/
def sampleRdy (s : State) : Bool × State :=
  match s.rdy with
  | b :: rest => (b, s.setRdy rest)
  | [] => (Config.freeRdy s.asked, s.countAsk)

/-! ### Touch events -/

/-- `TchSetup` (R212). -/
def tchSetup (s : State) : State :=
  (s.emitF (.tch .tchSetup)).emitP [.config, .set .tCs false, .set .tClk false, .set .tDo false]

/-- `TchSel` (R206). -/
def tchSel (s : State) : State := (s.emitF (.tch .tchSel)).emitP [.set .tCs true]

/-- `TchDesel` (R206). -/
def tchDesel (s : State) : State := (s.emitF (.tch .tchDesel)).emitP [.set .tCs false]

/-- `TchReady`: one sample of the ready line (R206). -/
def tchReadySample (s : State) : Bool × State :=
  let a := sampleRdy s
  (a.1, (a.2.emitF (.tch (.tchReady a.1))).emitP [.get .tRdy a.1])

/-- The exchange's registers in the command phase, `sent` bits of the command shifted out of `sr`: neither `res_sr` nor `k`
has been written (R193, R52). -/
def commandWork (sr : Byte) (sent : Nat) : XchgWork := { cmdSr := sr, sent := sent, resSr := none, k := none }

/-- The exchange's registers in the response phase: all eight command bits are out (R193). -/
def responseWork (r : Raw) (k : Option Nat) : XchgWork := { cmdSr := 0#8, sent := 8, resSr := some r, k := k }

/-- The command phase: `n` more bits, most significant first, `sr` the shift register and `sent` the bits sent so far (R193,
R194). -/
def commandPhase : Nat → Byte → Nat → State → State
  | 0, _, _, s => s
  | n + 1, sr, sent, s =>
    commandPhase n (sr <<< 1) (sent + 1)
      ((s.emitP (commandBit sr.msb)).setXchg (some (commandWork (sr <<< 1) (sent + 1))))

/-- The response phase: `n` more clocks, the next being `k`, and `r` the bits so far (R193, R195); `T_DI` is sampled after
the middle twelve and shifted in, most significant bit first (R110). The counter is written as a clock begins and stays
until the next one begins. -/
def responsePhase : Nat → Nat → Raw → State → Raw × State
  | 0, _, r, s => (r, s)
  | n + 1, k, r, s =>
    let s1 := (s.setXchg (some (responseWork r (some k)))).emitP responseClock
    if sampled s.cfg k then
      let a := sampleTdi s1
      let r' := shiftIn r a.1
      responsePhase n (k + 1) r' ((a.2.emitP [.get .tDi a.1]).setXchg (some (responseWork r' (some k))))
    else responsePhase n (k + 1) r s1

/-- One touch exchange: eight command clocks, `T_DO` low, `res_sr` cleared, sixteen response clocks k = 1 to 16 (R192,
R193). -/
def exchange (c : Byte) (s : State) : Raw × State :=
  let s1 := commandPhase 8 c 0 (s.setXchg (some (commandWork c 0)))
  let s2 := (s1.emitP [.set .tDo false]).setXchg (some (responseWork 0#12 none))
  let a := responsePhase 16 1 0#12 s2
  (a.1, (a.2.setXchg none).emitF (.tch (.tchXchg c a.1)))

/-- ReadChannel inside a session (R196). -/
def readChannel (ch : Channel) (s : State) : Raw × State := exchange (channelCommand s.cfg ch) s

/-! ### Frames issued directly (log entry 7) -/

/-- The preconditions of a bus write issued directly (R132, R134), in the order of R278. -/
def withBus (s : State) (body : State → Out) : Out :=
  issue s fun s =>
    refuseIf (!s.lcdReady) .notInitialised <|
    refuseIf (decide (s.pin.lCs ≠ some true)) .notSelected <|
    body s

/-- An LCD command frame applied to a state with the controller selected: the command, then its argument bytes, whatever
they are (R101, R136). -/
def lcdFrame (code : Byte) (args : List Byte) (s : State) : Out :=
  withBus s fun s => complete .nothing (lcdEvents (cmdFrame code args) s)

/-- A touch command byte: one exchange, inside the session if the touch chip-select is asserted, else bracketed as a
direct issue is (R196, R214). -/
def touchFrame (code : Byte) (report : Raw → Result) (s : State) : Out :=
  issue s fun s =>
    refuseIf (!s.tchReady) .notInitialised <|
    if s.pin.tCs = some true then
      let a := exchange code s
      complete (report a.1) a.2
    else
      let a := exchange code (tchSel s)
      complete (report a.1) (tchDesel a.2)

end Sys2Proof.Machine
end

