-- ==== Sys2Proof/Machine/Btp.lean ====
section
/-!
DEFINITION. BusTimingPrimitives (40_bus_timing.md): BTP.PULSE and BTP.WLB issued directly, on a state in which the
controller is selected (R132).
-/

namespace Sys2Proof.Machine

/-- BTP.PULSE (R131, R132). "Level F: one strobe": issued directly it delivers the latched value again, the event
`LcdRpt` of R17, whose expansion is the strobe alone (R136; log entry 8). -/
def execBtpPulse (s : State) : Out :=
  withBus s fun s =>
    refuseIf s.latch.isNone .latchUnknown <|
    complete .nothing (lcdEvent s .lcdRpt)

/-- BTP.WLB (R134). "Level F: one write of `value`, kind given by `st.pin.L_DC`" (log entry 8). -/
def execBtpWlb (value : Half) (s : State) : Out :=
  withBus s fun s => complete .nothing (lcdEvent s (writeEvent s.pin.lDc value))

end Sys2Proof.Machine
end

