-- ==== Sys2Proof/Machine/Frames.lean ====
section
/-!
DEFINITION. The frame rows of the opcode table as instructions: LCD command frames (30_encoding.md R101, R104 to R107,
R117), touch command bytes (R108, R111) and pixel writes (R100, R103). Each is the bus transaction the operations make of
it, applied to a chosen state, under the preconditions the spec gives a bus primitive there (R132; log entry 7).
-/

namespace Sys2Proof.Machine

/-! ### LCD command frames: a command and its argument bytes, those of R104 unless others are given (R101; log entry 7) -/

/-- `CMD_PLL_MULT`, by itself with `ARGS_PLL_MULT`, as at step S1 (R104). -/
def execCmdPllMult (s : State) (args : Option (List Byte) := none) : Out :=
  lcdFrame s.cfg.cmdPllMult (args.getD s.cfg.argsPllMult) s

/-- `CMD_PLL_CTRL`: at step S2 with `ARGS_PLL_ENABLE`, at step S3 with `ARGS_PLL_SWITCH` (R104). -/
def execCmdPllCtrl (args : List Byte) (s : State) : Out := lcdFrame s.cfg.cmdPllCtrl args s

/-- `CMD_SOFT_RESET`, by itself without arguments, as at step S4 (R104). -/
def execCmdSoftReset (s : State) (args : Option (List Byte) := none) : Out :=
  lcdFrame s.cfg.cmdSoftReset (args.getD []) s

/-- `CMD_PCLK_DIV`, by itself with `ARGS_PCLK_DIV`, as at step S5 (R104). -/
def execCmdPclkDiv (s : State) (args : Option (List Byte) := none) : Out :=
  lcdFrame s.cfg.cmdPclkDiv (args.getD s.cfg.argsPclkDiv) s

/-- `CMD_PANEL_SPEC`, by itself with `ARGS_PANEL_SPEC`, as at step S6 (R104). -/
def execCmdPanelSpec (s : State) (args : Option (List Byte) := none) : Out :=
  lcdFrame s.cfg.cmdPanelSpec (args.getD s.cfg.argsPanelSpec) s

/-- `CMD_HSYNC`, by itself with `ARGS_HSYNC`, as at step S7 (R104). -/
def execCmdHsync (s : State) (args : Option (List Byte) := none) : Out :=
  lcdFrame s.cfg.cmdHsync (args.getD s.cfg.argsHsync) s

/-- `CMD_VSYNC`, by itself with `ARGS_VSYNC`, as at step S8 (R104). -/
def execCmdVsync (s : State) (args : Option (List Byte) := none) : Out :=
  lcdFrame s.cfg.cmdVsync (args.getD s.cfg.argsVsync) s

/-- `CMD_GPIO_MODE`, by itself with `ARGS_GPIO_MODE`, as at step S9 (R104). -/
def execCmdGpioMode (s : State) (args : Option (List Byte) := none) : Out :=
  lcdFrame s.cfg.cmdGpioMode (args.getD s.cfg.argsGpioMode) s

/-- `CMD_PIXEL_IF`, by itself with `ARGS_PIXEL_IF`, as at step S10 (R104). -/
def execCmdPixelIf (s : State) (args : Option (List Byte) := none) : Out :=
  lcdFrame s.cfg.cmdPixelIf (args.getD s.cfg.argsPixelIf) s

/-- `CMD_COL_ADDR`: the bytes of the low bound, then those of the high one (R106). -/
def execCmdColAddr (lo hi : List Byte) (s : State) : Out := lcdFrame s.cfg.cmdColAddr (lo ++ hi) s

/-- `CMD_ROW_ADDR`: the bytes of the low bound, then those of the high one (R106). -/
def execCmdRowAddr (lo hi : List Byte) (s : State) : Out := lcdFrame s.cfg.cmdRowAddr (lo ++ hi) s

/-- `CMD_MEM_WRITE`, by itself without arguments (R104); the pixel stream that follows is made of pixel writes (R102). -/
def execCmdMemWrite (s : State) (args : Option (List Byte) := none) : Out := lcdFrame s.cfg.cmdMemWrite (args.getD []) s

/-- `CMD_DISPLAY_ON`, by itself without arguments, as at step S12 (R104). -/
def execCmdDisplayOn (s : State) (args : Option (List Byte) := none) : Out :=
  lcdFrame s.cfg.cmdDisplayOn (args.getD []) s

/-- `CMD_BL_PWM`, by itself with `ARGS_BL_PWM`, as at step S13 (R107). -/
def execCmdBlPwm (s : State) (args : Option (List Byte) := none) : Out :=
  lcdFrame s.cfg.cmdBlPwm (args.getD s.cfg.argsBlPwm) s

/-- `CMD_DYN_BL`; the spec fixes no arguments, and no operation issues it (R117). -/
def execCmdDynBl (args : List Byte) (s : State) : Out := lcdFrame s.cfg.cmdDynBl args s

/-! ### Touch command bytes and pixel writes -/

/-- `CMD_TOUCH_X`: the exchange of TCH.READCH X (R111). -/
def execCmdTouchX (s : State) : Out := touchFrame s.cfg.cmdTouchX .raw s

/-- `CMD_TOUCH_Y`: the exchange of TCH.READCH Y (R111). -/
def execCmdTouchY (s : State) : Out := touchFrame s.cfg.cmdTouchY .raw s

/-- `CMD_TOUCH_PD`: the power-down exchange, its result discarded (R111, R210). -/
def execCmdTouchPd (s : State) : Out := touchFrame s.cfg.cmdTouchPd (fun _ => .nothing) s

/-- A new-value pixel write (R100, R136). -/
def execLcdPix (p : Half) (s : State) : Out :=
  withBus s fun s => complete .nothing (lcdEvent s (.lcdPix p))

/-- A repeat-strobe: the latched value delivered again (R103, R136). -/
def execLcdRpt (s : State) : Out :=
  withBus s fun s =>
    refuseIf s.latch.isNone .latchUnknown <|
    complete .nothing (lcdEvent s .lcdRpt)

end Sys2Proof.Machine
end

