-- ==== Sys2Proof/Machine/Lcd.lean ====
section
/-!
DEFINITION. LcdController (41_lcd_controller.md): LCD.INIT and LCD.FLUSH.
-/

namespace Sys2Proof.Machine

/-! ### LCD.INIT -/

/-- Steps S0 to S10 of the table of R152, in order, each followed by its delay. -/
def initHead (c : Config) : List (List LcdEvent) :=
  [ [LcdEvent.pinSetup, .lcdReset, .lcdSel],
    cmdFrame c.cmdPllMult c.argsPllMult ++ [LcdEvent.delayMs .dlyS1],
    cmdFrame c.cmdPllCtrl c.argsPllEnable ++ [LcdEvent.delayMs .dlyS2],
    cmdFrame c.cmdPllCtrl c.argsPllSwitch ++ [LcdEvent.delayMs .dlyS3],
    cmdFrame c.cmdSoftReset [] ++ [LcdEvent.delayMs .dlyS4],
    cmdFrame c.cmdPclkDiv c.argsPclkDiv ++ [LcdEvent.delayMs .dlyS5],
    cmdFrame c.cmdPanelSpec c.argsPanelSpec ++ [LcdEvent.delayMs .dlyS6],
    cmdFrame c.cmdHsync c.argsHsync ++ [LcdEvent.delayMs .dlyS7],
    cmdFrame c.cmdVsync c.argsVsync ++ [LcdEvent.delayMs .dlyS8],
    cmdFrame c.cmdGpioMode c.argsGpioMode ++ [LcdEvent.delayMs .dlyS9],
    cmdFrame c.cmdPixelIf c.argsPixelIf ++ [LcdEvent.delayMs .dlyS10] ]

/-- Steps S12 and S13 (R152). -/
def initTail (c : Config) : List (List LcdEvent) :=
  [ cmdFrame c.cmdDisplayOn [] ++ [LcdEvent.delayMs .dlyS12],
    cmdFrame c.cmdBlPwm c.argsBlPwm ++ [LcdEvent.delayMs .dlyS13] ]

/-- The full-panel clear (R154): one pixel write, then a repeat for every other pixel of the panel. -/
def clearPanel (c : Config) : List LcdEvent :=
  window c (wholePanel c) ++ [.lcdCmd c.cmdMemWrite, .lcdPix c.clearColor] ++
    List.replicate (c.panelW * c.panelH - 1) .lcdRpt

/-- Step S11: nothing but its delay when `CLEAR_ON_INIT` is false (R153). -/
def initClear (c : Config) : List LcdEvent := (if c.clearOnInit then clearPanel c else []) ++ [.delayMs .dlyS11]

/-- The LCD working registers during the clear (R30): the whole panel; the clear has no loop over the buffer, so its loop
registers hold no value (R154; log entry 14). -/
def clearWork (c : Config) : LcdWork :=
  { cx1 := 0, cy1 := 0, cx2 := (c.panelW : Int) - 1, cy2 := (c.panelH : Int) - 1, fullW := c.panelW, actW := c.panelW,
    row := none, col := none, idx := none, prev := none }

/-- Run steps in order, the sequencer at step `n`, `n + 1`, ... (R33, R155). -/
def runSteps : Nat → List (List LcdEvent) → State → State
  | _, [], s => s
  | n, es :: rest, s => runSteps (n + 1) rest (lcdEvents es (s.setInitStep n))

/-- The whole sequence of R153. The LCD working registers are alive in the clear of step S11 and in no other (R30). -/
def initSequence (s : State) : State :=
  let s1 := (runSteps 0 (initHead s.cfg) s).setInitStep 11
  let s2 := if s.cfg.clearOnInit then s1.setLcd (some (clearWork s.cfg)) else s1
  let s3 := (lcdEvents (initClear s.cfg) s2).setLcd none
  lcdEvent (runSteps 12 (initTail s.cfg) s3) .lcdDesel

/-- LCD.INIT (R151, R153). -/
def execLcdInit (s : State) : Out :=
  issue s fun s =>
    refuseIf s.lcdReady .alreadyInitialised <|
    complete .nothing ((initSequence s).setLcdReady true)

/-! ### LCD.FLUSH -/

/-- The LCD working registers at a pixel: the loop registers beside those `w` of the whole Flush (R30). -/
def LcdWork.at (w : LcdWork) (row idx col : Int) (prev : Option Half) : LcdWork :=
  { w with row := some row, col := some col, idx := some idx, prev := prev }

/-- The columns of one row, `n` still to come (R160, R162). -/
def streamCols (buf : List Half) (w : LcdWork) (row idx : Int) : Nat → Int → Option Half → State → State
  | 0, _, _, s => s
  | n + 1, col, prev, s =>
    let p := memRead buf (idx + col)
    streamCols buf w row idx n (col + 1) (some p)
      ((lcdEvent s (pixelEvent prev p)).setLcd (some (w.at row idx (col + 1) (some p))))

/-- The rows, `n` still to come: the comparison restarts at each (R160, R161, R162). -/
def streamRows (r : Region) (buf : List Half) (w : LcdWork) : Nat → Int → State → State
  | 0, _, s => s
  | n + 1, row, s =>
    let idx := bufIndex r w.cx1 row
    streamRows r buf w n (row + 1)
      (streamCols buf w row idx w.actW.toNat 0 none (s.setLcd (some (w.at row idx 0 none))))

/-- The working registers before the first row (R160). -/
def flushWork (r : Region) (k : Clip) : LcdWork :=
  { cx1 := k.cx1, cy1 := k.cy1, cx2 := k.cx2, cy2 := k.cy2, fullW := fullWidth r, actW := k.actWidth, row := none,
    col := none, idx := none, prev := none }

/-- The non-empty path up to and with `LcdDesel` (R160, R166). -/
def flushStream (r : Region) (buf : List Half) (k : Clip) (s : State) : State :=
  let w := flushWork r k
  let s1 := lcdEvents (.lcdSel :: window s.cfg k ++ [.lcdCmd s.cfg.cmdMemWrite]) (s.setLcd (some w))
  lcdEvent (streamRows r buf w k.rows.toNat k.cy1 s1) .lcdDesel

/-- The flush-complete callback (R164, R264) and what the host's callback does. It returns (H7), or it issues an operation
and returns: the Flush still runs, so `busy` holds and `issue` refuses that operation, which then has no effect (R276,
R283, 93_implementation_defined.md V3); either way the Flush returns when the callback has (R264). Or it never returns
(V17; log entry 9). -/
def signalDone (s : State) : Out :=
  let t := lcdEvent s .flushDone
  match s.cfg.callback with
  | .returns | .issuesOperation => complete .nothing t
  | .neverReturns => .fault .callbackNeverReturns

/-- LCD.FLUSH (R156, R159, R160). The emptiness test comes before the buffer test (R278). -/
def execLcdFlush (region : Region) (buf : List Half) (s : State) : Out :=
  issue s fun s =>
    refuseIf (!s.lcdReady) .notInitialised <|
    let k := clip s.cfg region
    if k.isEmpty then signalDone s
    else
      refuseIf (!bufferLongEnough region k buf) .bufferTooShort <|
      signalDone (flushStream region buf k s)

end Sys2Proof.Machine
end

