-- ==== Sys2Proof/Machine/Map.lean ====
section
/-!
DEFINITION. CoordinateMapper (43_coordinate_mapper.md): MAP.ORIENT, MAP.APPLYCAL, MAP.CALIBRATE.
-/

namespace Sys2Proof.Machine

/-- MAP.ORIENT (R231). -/
def execMapOrient (rawX rawY : Nat) (flags : Byte) (s : State) : Out :=
  issue s fun s =>
    refuseIf (!(rawOk rawX && rawOk rawY)) .operandRange <|
    let o := orient (BitVec.ofNat 12 rawX) (BitVec.ofNat 12 rawY) (oriOf flags)
    complete (.rawPair o.1 o.2) s

/-- MAP.APPLYCAL (R234). -/
def execMapApplycal (value : Nat) (scale offset : Word) (dimension : Nat) (s : State) : Out :=
  issue s fun s =>
    refuseIf (!(rawOk value && dimOk dimension)) .operandRange <|
    let v := BitVec.ofNat 12 value
    complete (.pixel (applyCal v scale offset dimension)) (s.setMap (mapWork v scale offset))

/-- The profile MAP.CALIBRATE writes (R238). -/
def calibration (xlow xhigh ylow yhigh margin : Nat) (d : Dim) : Cal :=
  let sx := calScale (spanWork xlow xhigh margin d.x)
  let sy := calScale (spanWork ylow yhigh margin d.y)
  { scaleX := BitVec.ofNat 32 sx
    scaleY := BitVec.ofNat 32 sy
    offsetX := BitVec.ofInt 32 (calOffset xlow sx margin)
    offsetY := BitVec.ofInt 32 (calOffset ylow sy margin) }

/-- MAP.CALIBRATE (R238, R240), the checks in the order of R278. -/
def execMapCalibrate (xlow xhigh ylow yhigh : Nat) (margin : Half) (s : State) : Out :=
  issue s fun s =>
    refuseIf (!s.tchReady) .notInitialised <|
    refuseIf (!(rawOk xlow && rawOk xhigh && rawOk ylow && rawOk yhigh)) .operandRange <|
    refuseIf (!(axisOk xlow xhigh margin.toNat s.tdim.x && axisOk ylow yhigh margin.toNat s.tdim.y)) .calibrationRange <|
    let s1 := (s.setSpan (spanWork xlow xhigh margin.toNat s.tdim.x)).setSpan (spanWork ylow yhigh margin.toNat s.tdim.y)
    complete .nothing (s1.setCal (calibration xlow xhigh ylow yhigh margin.toNat s.tdim))

end Sys2Proof.Machine
end

