-- ==== Sys2Proof/Machine/Sys.lean ====
section
/-!
DEFINITION. SYS.TICK (44_host_interface.md R263) and the reserved select codes (30_encoding.md R114).
-/

namespace Sys2Proof.Machine

/-- SYS.TICK: no state read, none written, no event (R263). -/
def execSysTick (s : State) : Out := issue s fun s => complete .nothing s

/-- Select code 0xC names no operation (R114). `ReservedOp` comes before every other check (R278). -/
def execReservedC (_s : State) : Out := .refused .reservedOp

/-- Select code 0xD names no operation (R114). -/
def execReservedD (_s : State) : Out := .refused .reservedOp

/-- Select code 0xE names no operation (R114). -/
def execReservedE (_s : State) : Out := .refused .reservedOp

/-- Select code 0xF names no operation (R114). -/
def execReservedF (_s : State) : Out := .refused .reservedOp

end Sys2Proof.Machine
end

