-- ==== Sys2Proof/Machine/Tch.lean ====
section
/-!
DEFINITION. TouchSampler (42_touch_sampler.md): TCH.INIT, TCH.READCH, TCH.DENOISE, TCH.POLL.
-/

namespace Sys2Proof.Machine

/-! ### TCH.INIT -/

/-- The uncalibrated profile: the whole raw range onto the whole axis (R212). -/
def defaultCal (dimX dimY : Nat) : Cal :=
  { scaleX := defaultScale dimX, scaleY := defaultScale dimY, offsetX := 0#32, offsetY := 0#32 }

/-- TCH.INIT (R212): the pins, the dimensions, the flags, the default profile. -/
def execTchInit (dimX dimY : Nat) (flags : Byte) (s : State) : Out :=
  issue s fun s =>
    refuseIf s.tchReady .alreadyInitialised <|
    refuseIf (!(dimOk dimX && dimOk dimY)) .operandRange <|
    complete .nothing <|
      (((((tchSetup s).setTdim { x := dimX, y := dimY }).setOri (oriOf flags)).setCal (defaultCal dimX dimY)).setPressed
        false).setTchReady true

/-! ### TCH.READCH -/

/-- A touch operation issued directly is bracketed by the touch chip-select and sends no power-down (R214). -/
def bracketed (body : State → Raw × State) (s : State) : Out :=
  issue s fun s =>
    refuseIf (!s.tchReady) .notInitialised <|
    let a := body (tchSel s)
    complete (.raw a.1) (tchDesel a.2)

/-- TCH.READCH (R196, R214). -/
def execTchReadch (ch : Channel) (s : State) : Out := bracketed (readChannel ch) s

/-! ### TCH.DENOISE -/

/-- An empty ring, before the fill (R199). -/
def Ring.empty : Ring := { entries := [], sum := 0, oldest := 0 }

/-- The ring's registers while it is filled: R199 has written no other yet (R52). -/
def Ring.filling (g : Ring) : RingWork :=
  { entries := g.entries, sum := g.sum, oldest := none, attempt := none, mean := none }

/-- The ring's registers once attempt `a` has computed the mean `m` (R199, R203). -/
def Ring.checked (g : Ring) (a : Nat) (m : Raw) : RingWork :=
  { entries := g.entries, sum := g.sum, oldest := some g.oldest, attempt := some a, mean := some m }

/-- The fill: `n` more fresh samples, in index order (R199). -/
def fillRing : Nat → Channel → Ring → State → Ring × State
  | 0, _, g, s => (g, s)
  | n + 1, ch, g, s =>
    let a := readChannel ch s
    let g' := { g with entries := g.entries ++ [a.1], sum := g.sum + a.1.toNat }
    fillRing n ch g' (a.2.setRing (some g'.filling))

/-- The mean as a RAW: it is one (R201). -/
def ringMeanRaw (c : Config) (g : Ring) : Raw := BitVec.ofNat 12 (ringMean c g)

/-- Replace the oldest entry with a fresh sample (R199, R202). -/
def replaceOldest (c : Config) (g : Ring) (r : Raw) : Ring :=
  { entries := g.entries.set g.oldest r
    sum := g.sum - (g.entries.getD g.oldest 0#12).toNat + r.toNat
    oldest := (g.oldest + 1) % c.ringN }

/-- Attempt `a` and at most `n` more after it (R199, R203): accept, or replace the oldest entry and try again; when none is
left, the mean of the last check (R204). -/
def attempts : Nat → Nat → Channel → Ring → State → Raw × State
  | n, a, ch, g, s =>
    let m := ringMeanRaw s.cfg g
    let s1 := s.setRing (some (g.checked a m))
    if ringOk s.cfg g (ringMean s.cfg g) then (m, s1.setFsm .accepted)
    else
      match n with
      | 0 => (m, s1.setFsm .bestEffort)
      | n' + 1 =>
        let x := readChannel ch s1
        let g' := replaceOldest s.cfg g x.1
        attempts n' (a + 1) ch g' (x.2.setRing (some (g'.checked a m)))

/-- Denoise begins: the sampler is Sampling and the ring lives, empty, its sum 0 (R199, R34), so the fill count of R33 is 0
during the first reading. -/
def denoiseBegin (s : State) : State := (s.setFsm .sampling).setRing (some Ring.empty.filling)

/-- Denoise up to its return, the sampler Accepted or BestEffort (R199, R28). -/
def denoiseRun (ch : Channel) (s : State) : Raw × State :=
  let f := fillRing s.cfg.ringN ch .empty (denoiseBegin s)
  attempts (s.cfg.maxAttempts - 1) 1 ch f.1 f.2

/-- Denoise (R199): after the return the sampler is Idle again and the ring is dead (R28, R34). -/
def denoise (ch : Channel) (s : State) : Raw × State :=
  let a := denoiseRun ch s
  (a.1, (a.2.setRing none).setFsm .idle)

/-- TCH.DENOISE (R198, R214). -/
def execTchDenoise (ch : Channel) (s : State) : Out := bracketed (denoise ch) s

/-! ### TCH.POLL -/

/-- Not pressed: no coordinates, no repeat (R208). -/
def releasedEvent : TouchEvent := { pressed := false, x := none, y := none, again := false }

/-- A poll that returns pressed = false, by either path (R206, R207, R208). -/
def pollReleased (s : State) : Out := complete (.touch releasedEvent none) (s.setPressed false)

/-- The mapping stage of a poll: orientation, then calibration of each axis (R206, R245). -/
def pollPressed (rx ry : Raw) (s : State) : Out :=
  let o := orient rx ry s.ori
  let px := applyCal o.1 s.cal.scaleX s.cal.offsetX s.tdim.x
  let py := applyCal o.2 s.cal.scaleY s.cal.offsetY s.tdim.y
  let s1 := s.setPoll { rx := some rx, ry := some ry, ox := some o.1, oy := some o.2, px := some px, py := some py }
  let s2 := (s1.setMap (mapWork o.1 s.cal.scaleX s.cal.offsetX)).setMap (mapWork o.2 s.cal.scaleY s.cal.offsetY)
  complete (.touch { pressed := true, x := some px, y := some py, again := s.prevPressed } (some (rx, ry)))
    (s2.setPressed true)

/-- The session of a poll: X, then Y, then power-down, all under the touch chip-select, and the second ready sample
before it is negated (R206, R210, R213). -/
def pollSession (s : State) : (Raw × Raw × Bool) × State :=
  let x := denoise .x ((tchSel s).setPollStage .sampleX)
  let y := denoise .y ((x.2.setPoll { rx := some x.1, ry := none, ox := none, oy := none, px := none, py := none }).setPollStage .sampleY)
  let s1 := y.2.setPoll { rx := some x.1, ry := some y.1, ox := none, oy := none, px := none, py := none }
  let d := exchange s1.cfg.cmdTouchPd (s1.setPollStage .powerDown)
  let b := tchReadySample (d.2.setPollStage .secondCheck)
  ((x.1, y.1, b.1), tchDesel b.2)

/-- TCH.POLL (R205, R206). -/
def execTchPoll (s : State) : Out :=
  issue s fun s =>
    refuseIf (!s.tchReady) .notInitialised <|
    let b := tchReadySample (s.setPollStage .firstCheck)
    if b.1 then
      let a := pollSession b.2
      if a.1.2.2 then pollPressed a.1.1 a.1.2.1 (a.2.setPollStage .mapping) else pollReleased a.2
    else pollReleased b.2

end Sys2Proof.Machine
end

