-- ==== Sys2Proof/Machine/Dispatch.lean ====
section
/-!
DEFINITION. One arm per instruction, each one direct call of its meaning.
-/

namespace Sys2Proof.Machine

def exec (i : Instr) (s : State) : Host.Outcome State Fault Refusal :=
  match i with
  -- the twelve operations (R92)
  | .btpPulse => Sys2Proof.Machine.execBtpPulse s
  | .btpWlb value => Sys2Proof.Machine.execBtpWlb value s
  | .lcdInit => Sys2Proof.Machine.execLcdInit s
  | .lcdFlush region buf => Sys2Proof.Machine.execLcdFlush region buf s
  | .tchInit dimX dimY flags => Sys2Proof.Machine.execTchInit dimX dimY flags s
  | .tchReadch ch => Sys2Proof.Machine.execTchReadch ch s
  | .tchDenoise ch => Sys2Proof.Machine.execTchDenoise ch s
  | .tchPoll => Sys2Proof.Machine.execTchPoll s
  | .mapOrient rawX rawY flags => Sys2Proof.Machine.execMapOrient rawX rawY flags s
  | .mapApplycal value scale offset dimension => Sys2Proof.Machine.execMapApplycal value scale offset dimension s
  | .mapCalibrate xlow xhigh ylow yhigh margin => Sys2Proof.Machine.execMapCalibrate xlow xhigh ylow yhigh margin s
  | .sysTick => Sys2Proof.Machine.execSysTick s
  -- the reserved select codes (R114)
  | .reservedC => Sys2Proof.Machine.execReservedC s
  | .reservedD => Sys2Proof.Machine.execReservedD s
  | .reservedE => Sys2Proof.Machine.execReservedE s
  | .reservedF => Sys2Proof.Machine.execReservedF s
  -- LCD command frames (R104)
  | .cmdPllMult args => Sys2Proof.Machine.execCmdPllMult s args
  | .cmdPllCtrl args => Sys2Proof.Machine.execCmdPllCtrl args s
  | .cmdSoftReset args => Sys2Proof.Machine.execCmdSoftReset s args
  | .cmdPclkDiv args => Sys2Proof.Machine.execCmdPclkDiv s args
  | .cmdPanelSpec args => Sys2Proof.Machine.execCmdPanelSpec s args
  | .cmdHsync args => Sys2Proof.Machine.execCmdHsync s args
  | .cmdVsync args => Sys2Proof.Machine.execCmdVsync s args
  | .cmdGpioMode args => Sys2Proof.Machine.execCmdGpioMode s args
  | .cmdPixelIf args => Sys2Proof.Machine.execCmdPixelIf s args
  | .cmdColAddr lo hi => Sys2Proof.Machine.execCmdColAddr lo hi s
  | .cmdRowAddr lo hi => Sys2Proof.Machine.execCmdRowAddr lo hi s
  | .cmdMemWrite args => Sys2Proof.Machine.execCmdMemWrite s args
  | .cmdDisplayOn args => Sys2Proof.Machine.execCmdDisplayOn s args
  | .cmdBlPwm args => Sys2Proof.Machine.execCmdBlPwm s args
  | .cmdDynBl args => Sys2Proof.Machine.execCmdDynBl args s
  -- touch command bytes (R111)
  | .cmdTouchX => Sys2Proof.Machine.execCmdTouchX s
  | .cmdTouchY => Sys2Proof.Machine.execCmdTouchY s
  | .cmdTouchPd => Sys2Proof.Machine.execCmdTouchPd s
  -- pixel writes (R100, R103)
  | .lcdPix p => Sys2Proof.Machine.execLcdPix p s
  | .lcdRpt => Sys2Proof.Machine.execLcdRpt s

end Sys2Proof.Machine
end

