-- ==== Sys2Proof/Machine/Step.lean ====
section
/-!
DEFINITION. One step (44_host_interface.md R260): the block takes the call the host presents next, decodes it and runs
the operation to completion. With no call pending it does nothing: "Between two operations the block does nothing".
-/

namespace Sys2Proof.Machine

/-- One step. A call whose code the block never issues is refused by name (R65, R117, R118; log entry 11). -/
def step (s : State) : Host.Outcome State Fault Refusal :=
  match s.calls with
  | [] => .next s
  | call :: rest =>
    match decode s.cfg call with
    | .error why => .refused (.notAnEncoding why)
    | .ok i => exec i (s.setCalls rest)

/-- Present a word of the opcode table as the host's next call (log entry 2). The word is read against the codes of
`Config.usual` (log entry 10), so the block is given the configuration that has them: the configuration is fixed from
outside, as the call is (R303 step 1). -/
def State.withFetchWord (s : State) (nbits w : Nat) : State :=
  match callOfTableWord nbits w with
  | none => s
  | some call => { s with cfg := Config.usual, calls := call :: s.calls }

end Sys2Proof.Machine
end

