-- ==== Sys2Proof/Safety.lean ====
section
/-!
DEFINITION. What a state between two operations looks like (10_state.md R20, R28, R29, R49 to R52; 60_exceptions.md R289;
70_reset_and_hazards.md R310), the invariant every step keeps, and the spec-side quantities the statements compare the
machine with: the level-P expansion of each level-F event written out as the table of R136 and the pseudocode of R193,
the event list of each LCD operation (R153, R160), the run code of a row and its decoder (R162, R103).
-/

namespace Sys2Proof.Machine

/-- No operation runs: not busy (R29), the sampler idle (R28), no working register holds a value (R52). -/
abbrev Quiescent (s : State) : Prop := s.busy = false ∧ s.fsm = .idle ∧ s.work = Work.idle

/-- The LCD lines and the latch: as R50 has them once LCD.INIT has completed, without value before (R49). -/
abbrev LcdLinesOk (s : State) : Prop :=
  if s.lcdReady then
    s.pin.lRst = some false ∧ s.pin.lCs = some false ∧ s.pin.lDc = some true ∧ s.pin.lWr = some true ∧
      s.pin.lLe = some false ∧ s.latch.isSome ∧ s.pin.dl = s.latch
  else
    s.pin.lRst = none ∧ s.pin.lCs = none ∧ s.pin.lDc = none ∧ s.pin.lWr = none ∧ s.pin.lLe = none ∧
      s.pin.dl = none ∧ s.latch = none

/-- The touch lines and registers: idle levels and dimensions in range once TCH.INIT has completed (R51, R191, R24),
no pin value and no previous press before (R49). -/
abbrev TouchOk (s : State) : Prop :=
  if s.tchReady then
    s.pin.tCs = some false ∧ s.pin.tClk = some false ∧ s.pin.tDo = some false ∧
      dimOk s.tdim.x = true ∧ dimOk s.tdim.y = true
  else
    s.pin.tCs = none ∧ s.pin.tClk = none ∧ s.pin.tDo = none ∧ s.prevPressed = false

/-- The invariant of the boundary between two operations. -/
abbrev Inv (s : State) : Prop := Quiescent s ∧ LcdLinesOk s ∧ TouchOk s

/-- Neither chip-select is asserted (R289, R310). -/
abbrev Deselected (s : State) : Prop := s.pin.lCs ≠ some true ∧ s.pin.tCs ≠ some true

/-! ### Level P of a level-F event -/

/-- `WL(v)`: the seven events of R134. -/
def levelWL (v : Half) : List EventP :=
  [.set .lLe true, .setData v, .spin .tLatchSetup, .set .lLe false, .set .lWr false, .spin .tStrobeLow, .set .lWr true]

/-- `PS`: the three events of R131. -/
def levelPS : List EventP := [.set .lWr false, .spin .tStrobeLow, .set .lWr true]

/-- The table of R136. -/
def LcdEvent.levelP : LcdEvent → List EventP
  | .pinSetup => [.config, .set .lCs false, .set .lWr true, .set .lDc true, .set .lLe false, .set .lRst false]
  | .lcdReset => [.set .lRst true, .sleepMs .tRstHold, .set .lRst false, .sleepMs .tRstRelease]
  | .lcdSel => [.set .lCs true]
  | .lcdDesel => [.set .lCs false]
  | .lcdCmd c => [.set .lDc false] ++ levelWL (c.setWidth 16) ++ [.set .lDc true]
  | .lcdData d => levelWL (d.setWidth 16)
  | .lcdPix p => levelWL p
  | .lcdRpt => levelPS
  | .lcdWrite _ v => levelWL v
  | .delayMs n => [.sleepMs n]
  | .flushDone => [.callback]

/-- The sixteen response clocks of R193 for the result `r`: after clock k the bit `b_k`, which R110 puts at place
`RESP_SKIP + 12 - k`, is sampled if k is one of the middle twelve (R109). -/
def responseEvents (c : Config) (r : Raw) : List EventP :=
  (List.range' 1 16).flatMap fun k =>
    responseClock ++ (if sampled c k then [.get .tDi (r.getLsbD (c.respSkip + 12 - k))] else [])

/-- The expansion of the touch events (R193, R206, R212). -/
def TchEvent.levelP (c : Config) : TchEvent → List EventP
  | .tchSetup => [.config, .set .tCs false, .set .tClk false, .set .tDo false]
  | .tchSel => [.set .tCs true]
  | .tchDesel => [.set .tCs false]
  | .tchXchg code r => (commandBits code).flatMap commandBit ++ [.set .tDo false] ++ responseEvents c r
  | .tchReady b => [.get .tRdy b]

/-- The level-P expansion of a level-F event (R8, R136, R193). -/
def EventF.levelP (c : Config) : EventF → List EventP
  | .lcd e => e.levelP
  | .tch e => e.levelP c

/-! ### The event list of each LCD operation -/

/-- The level-F trace of LCD.INIT, step by step (R152, R153). -/
def initEvents (c : Config) : List LcdEvent :=
  [LcdEvent.pinSetup, .lcdReset, .lcdSel] ++
  cmdFrame c.cmdPllMult c.argsPllMult ++ [LcdEvent.delayMs .dlyS1] ++
  cmdFrame c.cmdPllCtrl c.argsPllEnable ++ [LcdEvent.delayMs .dlyS2] ++
  cmdFrame c.cmdPllCtrl c.argsPllSwitch ++ [LcdEvent.delayMs .dlyS3] ++
  cmdFrame c.cmdSoftReset [] ++ [LcdEvent.delayMs .dlyS4] ++
  cmdFrame c.cmdPclkDiv c.argsPclkDiv ++ [LcdEvent.delayMs .dlyS5] ++
  cmdFrame c.cmdPanelSpec c.argsPanelSpec ++ [LcdEvent.delayMs .dlyS6] ++
  cmdFrame c.cmdHsync c.argsHsync ++ [LcdEvent.delayMs .dlyS7] ++
  cmdFrame c.cmdVsync c.argsVsync ++ [LcdEvent.delayMs .dlyS8] ++
  cmdFrame c.cmdGpioMode c.argsGpioMode ++ [LcdEvent.delayMs .dlyS9] ++
  cmdFrame c.cmdPixelIf c.argsPixelIf ++ [LcdEvent.delayMs .dlyS10] ++
  (if c.clearOnInit then
    boundFrame c.cmdColAddr 0#16 (BitVec.ofNat 16 (c.panelW - 1)) ++
    boundFrame c.cmdRowAddr 0#16 (BitVec.ofNat 16 (c.panelH - 1)) ++
    [LcdEvent.lcdCmd c.cmdMemWrite, .lcdPix c.clearColor] ++ List.replicate (c.panelW * c.panelH - 1) LcdEvent.lcdRpt
  else []) ++ [LcdEvent.delayMs .dlyS11] ++
  cmdFrame c.cmdDisplayOn [] ++ [LcdEvent.delayMs .dlyS12] ++
  cmdFrame c.cmdBlPwm c.argsBlPwm ++ [LcdEvent.delayMs .dlyS13] ++
  [LcdEvent.lcdDesel]

/-- The pixels of one row of the clipped region, left to right (R63, R76). -/
def rowPixels (r : Region) (k : Clip) (buf : List Half) (y : Int) : List Half :=
  (List.range k.actWidth.toNat).map fun (j : Nat) => memRead buf (bufIndex r (k.cx1 + j) y)

/-- The rows of the clipped region, top to bottom (R76, R161). -/
def clippedRows (r : Region) (k : Clip) (buf : List Half) : List (List Half) :=
  (List.range k.rows.toNat).map fun (i : Nat) => rowPixels r k buf (k.cy1 + i)

/-- The run code of a row after a pixel `prev` of the same row (R162). -/
def runCode (prev : Option Half) : List Half → List LcdEvent
  | [] => []
  | p :: ps => (if prev = some p then .lcdRpt else .lcdPix p) :: runCode (some p) ps

/-- The pixel writes of a whole Flush: the run code restarts at each row (R161, R162). -/
def streamEvents (rows : List (List Half)) : List LcdEvent := rows.flatMap (runCode none)

/-- The level-F trace of LCD.FLUSH (R159, R160). -/
def flushEvents (c : Config) (r : Region) (buf : List Half) : List LcdEvent :=
  let k := clip c r
  if k.isEmpty then [.flushDone]
  else
    [.lcdSel] ++ window c k ++ [.lcdCmd c.cmdMemWrite] ++ streamEvents (clippedRows r k buf) ++ [.lcdDesel, .flushDone]

/-- A new-value pixel write (R17). -/
def isNewValue : LcdEvent → Bool
  | .lcdPix _ => true
  | .lcdRpt | .pinSetup | .lcdReset | .lcdSel | .lcdDesel | .lcdCmd _ | .lcdData _ | .lcdWrite _ _ | .delayMs _
  | .flushDone => false

/-- A repeat-strobe (R17). -/
def isRepeat : LcdEvent → Bool
  | .lcdRpt => true
  | .lcdPix _ | .pinSetup | .lcdReset | .lcdSel | .lcdDesel | .lcdCmd _ | .lcdData _ | .lcdWrite _ _ | .delayMs _
  | .flushDone => false

/-- A touch exchange (R17). -/
def isExchange : EventF → Bool
  | .tch (.tchXchg _ _) => true
  | .tch .tchSetup | .tch .tchSel | .tch .tchDesel | .tch (.tchReady _) | .lcd _ => false

/-- The decoder of a pixel stream (R103): each repeat-strobe stands for the value of the write before it. -/
def recoverPixels : Option Half → List LcdEvent → List Half
  | _, [] => []
  | last, e :: es =>
    match e with
    | .lcdPix p => p :: recoverPixels (some p) es
    | .lcdRpt => last.toList ++ recoverPixels last es
    | .pinSetup | .lcdReset | .lcdSel | .lcdDesel | .lcdCmd _ | .lcdData _ | .lcdWrite _ _ | .delayMs _ | .flushDone =>
      recoverPixels last es

/-- New-value writes of an event list (R163). -/
def newValueWrites (es : List LcdEvent) : Nat := es.countP isNewValue

/-- Repeat-strobes of an event list (R163). -/
def repeatStrobes (es : List LcdEvent) : Nat := es.countP isRepeat

/-- The words of a command frame as the controller receives them (R42, R100). -/
def frameWords (code : Byte) (args : List Byte) : List BusWord :=
  { dc := false, value := code.setWidth 16, kind := .latched } ::
    args.map fun d => { dc := true, value := d.setWidth 16, kind := .latched }

/-- What the controller receives during LCD.INIT: the command frames of S1 to S10, the clear if it is configured, the
frames of S12 and S13 (R42, R153, R154). -/
def initWords (c : Config) : List BusWord :=
  frameWords c.cmdPllMult c.argsPllMult ++ frameWords c.cmdPllCtrl c.argsPllEnable ++
  frameWords c.cmdPllCtrl c.argsPllSwitch ++ frameWords c.cmdSoftReset [] ++ frameWords c.cmdPclkDiv c.argsPclkDiv ++
  frameWords c.cmdPanelSpec c.argsPanelSpec ++ frameWords c.cmdHsync c.argsHsync ++ frameWords c.cmdVsync c.argsVsync ++
  frameWords c.cmdGpioMode c.argsGpioMode ++ frameWords c.cmdPixelIf c.argsPixelIf ++
  (if c.clearOnInit then
    frameWords c.cmdColAddr (boundBytes 0#16 (BitVec.ofNat 16 (c.panelW - 1))) ++
    frameWords c.cmdRowAddr (boundBytes 0#16 (BitVec.ofNat 16 (c.panelH - 1))) ++ frameWords c.cmdMemWrite [] ++
    BusWord.mk true c.clearColor .latched ::
      List.replicate (c.panelW * c.panelH - 1) (BusWord.mk true c.clearColor .repeated)
  else []) ++
  frameWords c.cmdDisplayOn [] ++ frameWords c.cmdBlPwm c.argsBlPwm

/-- The command frame an LCF row stands for, its code and its argument bytes (R101, R104). -/
def lcdFrameOf (c : Config) : Instr → Option (Byte × List Byte)
  | .cmdPllMult args => some (c.cmdPllMult, args.getD c.argsPllMult)
  | .cmdPllCtrl args => some (c.cmdPllCtrl, args)
  | .cmdSoftReset args => some (c.cmdSoftReset, args.getD [])
  | .cmdPclkDiv args => some (c.cmdPclkDiv, args.getD c.argsPclkDiv)
  | .cmdPanelSpec args => some (c.cmdPanelSpec, args.getD c.argsPanelSpec)
  | .cmdHsync args => some (c.cmdHsync, args.getD c.argsHsync)
  | .cmdVsync args => some (c.cmdVsync, args.getD c.argsVsync)
  | .cmdGpioMode args => some (c.cmdGpioMode, args.getD c.argsGpioMode)
  | .cmdPixelIf args => some (c.cmdPixelIf, args.getD c.argsPixelIf)
  | .cmdColAddr lo hi => some (c.cmdColAddr, lo ++ hi)
  | .cmdRowAddr lo hi => some (c.cmdRowAddr, lo ++ hi)
  | .cmdMemWrite args => some (c.cmdMemWrite, args.getD [])
  | .cmdDisplayOn args => some (c.cmdDisplayOn, args.getD [])
  | .cmdBlPwm args => some (c.cmdBlPwm, args.getD c.argsBlPwm)
  | .cmdDynBl args => some (c.cmdDynBl, args)
  | .btpPulse | .btpWlb _ | .lcdInit | .lcdFlush _ _ | .tchInit _ _ _ | .tchReadch _ | .tchDenoise _ | .tchPoll
  | .mapOrient _ _ _ | .mapApplycal _ _ _ _ | .mapCalibrate _ _ _ _ _ | .sysTick
  | .reservedC | .reservedD | .reservedE | .reservedF
  | .cmdTouchX | .cmdTouchY | .cmdTouchPd | .lcdPix _ | .lcdRpt => none

/-- The byte a TCB row stands for (R111). -/
def touchByteOf (c : Config) : Instr → Option Byte
  | .cmdTouchX => some c.cmdTouchX
  | .cmdTouchY => some c.cmdTouchY
  | .cmdTouchPd => some c.cmdTouchPd
  | .btpPulse | .btpWlb _ | .lcdInit | .lcdFlush _ _ | .tchInit _ _ _ | .tchReadch _ | .tchDenoise _ | .tchPoll
  | .mapOrient _ _ _ | .mapApplycal _ _ _ _ | .mapCalibrate _ _ _ _ _ | .sysTick
  | .reservedC | .reservedD | .reservedE | .reservedF
  | .cmdPllMult _ | .cmdPllCtrl _ | .cmdSoftReset _ | .cmdPclkDiv _ | .cmdPanelSpec _ | .cmdHsync _ | .cmdVsync _
  | .cmdGpioMode _ | .cmdPixelIf _ | .cmdColAddr _ _ | .cmdRowAddr _ _ | .cmdMemWrite _ | .cmdDisplayOn _ | .cmdBlPwm _
  | .cmdDynBl _
  | .lcdPix _ | .lcdRpt => none

/-! ### Rings -/

/-- The window of `RING_N` readings that the check after `j` replacements looks at: the ring is a "fixed-size sliding
window of recent raw samples" (00_scope.md GLOSSARY; R199, R202). -/
def ringWindow (c : Config) (xs : List Raw) (j : Nat) : List Raw := (xs.drop j).take c.ringN

/-- Its mean, floor division (R201). -/
def windowMean (c : Config) (xs : List Raw) (j : Nat) : Nat := ((ringWindow c xs j).map BitVec.toNat).sum / c.ringN

/-- The acceptance test on it, inclusive (R200). -/
def windowOk (c : Config) (xs : List Raw) (j : Nat) : Bool :=
  (ringWindow c xs j).all fun e => decide (((e.toNat : Int) - windowMean c xs j).natAbs ≤ c.tol)

/-- The meaning of Denoise (R199, R203, R204) in terms of the readings `xs` it makes, in order, and its result `v`: it
fills the ring, then replaces one entry after each failed check but the last allowed; `v` is the mean of the last check. -/
structure IsDenoise (c : Config) (xs : List Raw) (v : Raw) : Prop where
  fills   : c.ringN ≤ xs.length
  bounded : xs.length ≤ c.ringN + (c.maxAttempts - 1)
  failed  : ∀ j, j < xs.length - c.ringN → windowOk c xs j = false
  last    : windowOk c xs (xs.length - c.ringN) = true ∨ xs.length = c.ringN + (c.maxAttempts - 1)
  mean    : v.toNat = windowMean c xs (xs.length - c.ringN)

/-- The exchanges of readings `rs` on a channel (R192, R196). -/
def readings (c : Config) (ch : Channel) (rs : List Raw) : List TchEvent := rs.map (.tchXchg (channelCommand c ch))

/-! ### What an operation leaves alone -/

/-- `s` with everything an LCD operation may write taken from `t`: the LCD lines, the latch, the words delivered, the
result and the traces (R150, R151, R156); no operation runs any more. -/
def lcdPart (s t : State) : State :=
  { s with
    busy := false
    fsm := .idle
    work := .idle
    pin := { s.pin with lRst := t.pin.lRst, lCs := t.pin.lCs, lDc := t.pin.lDc, lWr := t.pin.lWr, lLe := t.pin.lLe,
                        dl := t.pin.dl }
    latch := t.latch
    delivered := t.delivered
    result := t.result
    traceF := t.traceF
    traceP := t.traceP }

/-- `s` with everything a touch exchange or a ready sample may write taken from `t`: the touch lines, the environment's
answers, the result and the traces (R190, R196, R198); no operation runs any more. -/
def touchPart (s t : State) : State :=
  { s with
    busy := false
    fsm := .idle
    work := .idle
    pin := { s.pin with tCs := t.pin.tCs, tClk := t.pin.tClk, tDo := t.pin.tDo }
    tdi := t.tdi
    rdy := t.rdy
    asked := t.asked
    result := t.result
    traceF := t.traceF
    traceP := t.traceP }

/-! ### Which instruction is which -/

/-- The twelve operations a host can issue (R92); the other rows are reserved codes and frames. -/
def isOperation : Instr → Bool
  | .btpPulse | .btpWlb _ | .lcdInit | .lcdFlush _ _ | .tchInit _ _ _ | .tchReadch _ | .tchDenoise _ | .tchPoll
  | .mapOrient _ _ _ | .mapApplycal _ _ _ _ | .mapCalibrate _ _ _ _ _ | .sysTick => true
  | .reservedC | .reservedD | .reservedE | .reservedF
  | .cmdPllMult _ | .cmdPllCtrl _ | .cmdSoftReset _ | .cmdPclkDiv _ | .cmdPanelSpec _ | .cmdHsync _ | .cmdVsync _
  | .cmdGpioMode _ | .cmdPixelIf _ | .cmdColAddr _ _ | .cmdRowAddr _ _ | .cmdMemWrite _ | .cmdDisplayOn _ | .cmdBlPwm _
  | .cmdDynBl _
  | .cmdTouchX | .cmdTouchY | .cmdTouchPd | .lcdPix _ | .lcdRpt => false

/-- The reserved select codes (R114). -/
def isReserved : Instr → Bool
  | .reservedC | .reservedD | .reservedE | .reservedF => true
  | .btpPulse | .btpWlb _ | .lcdInit | .lcdFlush _ _ | .tchInit _ _ _ | .tchReadch _ | .tchDenoise _ | .tchPoll
  | .mapOrient _ _ _ | .mapApplycal _ _ _ _ | .mapCalibrate _ _ _ _ _ | .sysTick
  | .cmdPllMult _ | .cmdPllCtrl _ | .cmdSoftReset _ | .cmdPclkDiv _ | .cmdPanelSpec _ | .cmdHsync _ | .cmdVsync _
  | .cmdGpioMode _ | .cmdPixelIf _ | .cmdColAddr _ _ | .cmdRowAddr _ _ | .cmdMemWrite _ | .cmdDisplayOn _ | .cmdBlPwm _
  | .cmdDynBl _
  | .cmdTouchX | .cmdTouchY | .cmdTouchPd | .lcdPix _ | .lcdRpt => false

/-- One bus write issued directly: it needs LCD.INIT to have completed and the controller selected (R132; log entry 7). -/
def isBusInstr : Instr → Bool
  | .btpPulse | .btpWlb _
  | .cmdPllMult _ | .cmdPllCtrl _ | .cmdSoftReset _ | .cmdPclkDiv _ | .cmdPanelSpec _ | .cmdHsync _ | .cmdVsync _
  | .cmdGpioMode _ | .cmdPixelIf _ | .cmdColAddr _ _ | .cmdRowAddr _ _ | .cmdMemWrite _ | .cmdDisplayOn _ | .cmdBlPwm _
  | .cmdDynBl _
  | .lcdPix _ | .lcdRpt => true
  | .lcdInit | .lcdFlush _ _ | .tchInit _ _ _ | .tchReadch _ | .tchDenoise _ | .tchPoll
  | .mapOrient _ _ _ | .mapApplycal _ _ _ _ | .mapCalibrate _ _ _ _ _ | .sysTick
  | .reservedC | .reservedD | .reservedE | .reservedF | .cmdTouchX | .cmdTouchY | .cmdTouchPd => false

/-- An instruction that needs TCH.INIT to have completed (R276). -/
def needsTouch : Instr → Bool
  | .tchReadch _ | .tchDenoise _ | .tchPoll | .mapCalibrate _ _ _ _ _ | .cmdTouchX | .cmdTouchY | .cmdTouchPd => true
  | .btpPulse | .btpWlb _ | .lcdInit | .lcdFlush _ _ | .tchInit _ _ _ | .mapOrient _ _ _ | .mapApplycal _ _ _ _ | .sysTick
  | .reservedC | .reservedD | .reservedE | .reservedF
  | .cmdPllMult _ | .cmdPllCtrl _ | .cmdSoftReset _ | .cmdPclkDiv _ | .cmdPanelSpec _ | .cmdHsync _ | .cmdVsync _
  | .cmdGpioMode _ | .cmdPixelIf _ | .cmdColAddr _ _ | .cmdRowAddr _ _ | .cmdMemWrite _ | .cmdDisplayOn _ | .cmdBlPwm _
  | .cmdDynBl _
  | .lcdPix _ | .lcdRpt => false

/-- An instruction that samples an input line; every other one asks the environment nothing (R19). -/
def asksEnvironment : Instr → Bool
  | .tchReadch _ | .tchDenoise _ | .tchPoll | .cmdTouchX | .cmdTouchY | .cmdTouchPd => true
  | .btpPulse | .btpWlb _ | .lcdInit | .lcdFlush _ _ | .tchInit _ _ _ | .mapOrient _ _ _ | .mapApplycal _ _ _ _
  | .mapCalibrate _ _ _ _ _ | .sysTick
  | .reservedC | .reservedD | .reservedE | .reservedF
  | .cmdPllMult _ | .cmdPllCtrl _ | .cmdSoftReset _ | .cmdPclkDiv _ | .cmdPanelSpec _ | .cmdHsync _ | .cmdVsync _
  | .cmdGpioMode _ | .cmdPixelIf _ | .cmdColAddr _ _ | .cmdRowAddr _ _ | .cmdMemWrite _ | .cmdDisplayOn _ | .cmdBlPwm _
  | .cmdDynBl _
  | .lcdPix _ | .lcdRpt => false

/-! ### The refusal table -/

/-- The condition of `CalibrationRange` (R276): low >= high, or 2 * margin > dimension - 1, on an axis. -/
def calibrationOut (i : Instr) (d : Dim) : Bool :=
  match i with
  | .mapCalibrate xlow xhigh ylow yhigh margin =>
      decide (xlow ≥ xhigh) || decide (ylow ≥ yhigh) || decide ((2 * margin.toNat : Int) > (d.x : Int) - 1) ||
        decide ((2 * margin.toNat : Int) > (d.y : Int) - 1)
  | _ => false

/-- The condition of `BufferTooShort` (R276): clipped region non-empty and `len <= idx(cx2, cy2)`. -/
def bufferShort (i : Instr) (c : Config) : Bool :=
  match i with
  | .lcdFlush r buf =>
      let k := clip c r
      decide (k.cx1 ≤ k.cx2 ∧ k.cy1 ≤ k.cy2 ∧ (buf.length : Int) ≤ (k.cy2 - r.y1.toInt) * fullWidth r + (k.cx2 - r.x1.toInt))
  | _ => false

/-- An instruction that needs LCD.INIT to have completed (R276). -/
def needsLcd (i : Instr) : Bool :=
  match i with
  | .lcdFlush _ _ => true
  | _ => isBusInstr i

/-- The condition of `AlreadyInitialised` (R276). -/
def alreadyInit (i : Instr) (s : State) : Bool :=
  match i with
  | .lcdInit => s.lcdReady
  | .tchInit _ _ _ => s.tchReady
  | _ => false

/-- The reason the spec gives for refusing `i` in `s`, if any: the table of R276 in the order of R278. -/
def refusalOf (i : Instr) (s : State) : Option Refusal :=
  if isReserved i then some .reservedOp
  else if s.busy then some .busy
  else if needsLcd i && !s.lcdReady then some .notInitialised
  else if needsTouch i && !s.tchReady then some .notInitialised
  else if alreadyInit i s then some .alreadyInitialised
  else if isOperation i && !i.wf s.cfg then some .operandRange
  else if calibrationOut i s.tdim then some .calibrationRange
  else if isBusInstr i && decide (s.pin.lCs ≠ some true) then some .notSelected
  else if decide (i = .btpPulse ∨ i = .lcdRpt) && s.latch.isNone then some .latchUnknown
  else if bufferShort i s.cfg then some .bufferTooShort
  else none

end Sys2Proof.Machine
end

