-- ==== Sys2Proof/Certificates/Slice0/Obligations.lean ====
section
/-!
DEFINITION. The statements for the provers, each from a numbered rule of spec/ (its docstring names it), grouped as the
spec's files are. "Model's choice" in a docstring names the log entry a clause rests on. Where a statement gives the next
state as a record update of the old one, that equation is its result, its completion and its frame at once.
-/

open Sys2Proof Sys2Proof.Machine

/-! ### Encoding (30_encoding.md) -/

/-- Decoding the encoding of a well-formed instruction gives it back, for every instruction and every legal configuration
(R92, R99, R100, R104, R106, R111). -/
def Obligations.DecodeEncodeRoundTrip : Prop :=
  ∀ (c : Config) (i : Instr), c.Legal → i.wf c = true → decode c (encode c i) = .ok i

/-- The other direction: a command frame, touch byte, bus word or repeat-strobe that decodes is the encoding of what it
decodes to, so each has one meaning and no bit of it is dropped (R100, R101, R103, R104, R106, R111). A bus word with `L_DC` = 0
is a second spelling of a command frame without argument bytes, the model's reading (log entry 21). An OP call is left
out: an operation ignores the ports of the others (R91). -/
def Obligations.BusFormsHaveOneMeaning : Prop :=
  ∀ (c : Config) (i : Instr),
    (∀ code args, decode c (.lcf code args) = .ok i → encode c i = .lcf code args) ∧
    (∀ code, decode c (.tcb code) = .ok i → encode c i = .tcb code) ∧
    (∀ word, decode c (.lbw word) = .ok i →
      encode c i = .lbw word ∨ ∃ code : Byte, word = 0#1 ++ code.setWidth 16 ∧ encode c i = .lcf code []) ∧
    (decode c .repeatStrobe = .ok i → encode c i = .repeatStrobe)

/-- Words written out from the tables of the spec: select codes with their ports (R92), window commands with their bytes
high first (R106), a touch byte (R111), a pixel word and a command word (R100). Two things rest on the model's choice: the
command codes are those of `Config.usual` (log entry 10), and a bus word is read as a pixel write if its `L_DC` is 1, as a
command frame without argument bytes if it is 0 (log entry 21). -/
def Obligations.WrittenOutWordsDecode : Prop :=
  decode Config.usual (.op 0b0001#4 { Ports.zero with value := 0x002C#16 }) = .ok (.btpWlb 0x002C#16) ∧
  decode Config.usual (.op 0b0011#4 { Ports.zero with region := ⟨0#16, 0#16, 4#16, 0#16⟩, buf := [0xF800#16] }) =
    .ok (.lcdFlush ⟨0#16, 0#16, 4#16, 0#16⟩ [0xF800#16]) ∧
  decode Config.usual (.op 0b0101#4 { Ports.zero with ch := true }) = .ok (.tchReadch .y) ∧
  decode Config.usual (.op 0b1000#4 { Ports.zero with rawX := 100, rawY := 200, flags := 0b011#8 }) =
    .ok (.mapOrient 100 200 0b011#8) ∧
  decode Config.usual (.op 0b1011#4 Ports.zero) = .ok .sysTick ∧
  decode Config.usual (.lcf 0x2A#8 [0x01#8, 0x02#8, 0x03#8, 0x04#8]) = .ok (.cmdColAddr [0x01#8, 0x02#8] [0x03#8, 0x04#8]) ∧
  decode Config.usual (.lcf 0x2B#8 [0x00#8, 0x00#8, 0x01#8, 0x0F#8]) = .ok (.cmdRowAddr [0x00#8, 0x00#8] [0x01#8, 0x0F#8]) ∧
  decode Config.usual (.tcb 0x93#8) = .ok .cmdTouchY ∧
  decode Config.usual (.lbw 0b11111100000000000#17) = .ok (.lcdPix 0xF800#16) ∧
  decode Config.usual (.lbw 0b00000000000101100#17) = .ok .cmdMemWrite ∧
  decode Config.usual .repeatStrobe = .ok .lcdRpt

/-- Select codes 0xC to 0xF name no operation: refused `ReservedOp`, whatever the ports, the state and the configuration;
a refusal has no next state, so no state changes and no event is emitted (R114). -/
def Obligations.ReservedCodesRefused : Prop :=
  (∀ (s : State) (select : BitVec 4) (p : Ports) (rest : List Call), 0xC ≤ select.toNat →
    step { s with calls := .op select p :: rest } = .refused .reservedOp) ∧
  ∀ s : State, exec .reservedC s = .refused .reservedOp ∧ exec .reservedD s = .refused .reservedOp ∧
    exec .reservedE s = .refused .reservedOp ∧ exec .reservedF s = .refused .reservedOp

/-- The only bits a step refuses as no encoding are codes the block never issues: an LCD code outside the fifteen (R65,
R117), a touch byte outside the three (R118), a bus word with `L_DC` = 0 that is the `zext_16` of none of the fifteen (R100,
R65). A frame with one of the fifteen runs with any argument bytes (R101), a touch byte of the three runs, a word with
`L_DC` = 0 that is the `zext_16` of one of the fifteen runs as that command, and every word with `L_DC` = 1 as a pixel
write (R100). The refusals, and the reading of a bus word, are the model's choice (log entries 11, 21). -/
def Obligations.OnlyForeignCodesRefused : Prop :=
  ∀ (s : State) (rest : List Call),
    (∀ code args, code ∉ s.cfg.lcdCommands →
      step { s with calls := .lcf code args :: rest } = .refused (.notAnEncoding .notAnLcdCommand)) ∧
    (∀ code args, code ∈ s.cfg.lcdCommands → ∃ i, lcdFrameOf s.cfg i = some (code, args) ∧
      step { s with calls := .lcf code args :: rest } = exec i { s with calls := rest }) ∧
    (∀ code, code ∉ s.cfg.touchCommands →
      step { s with calls := .tcb code :: rest } = .refused (.notAnEncoding .notATouchCommand)) ∧
    (∀ code, code ∈ s.cfg.touchCommands → ∃ i, touchByteOf s.cfg i = some code ∧
      step { s with calls := .tcb code :: rest } = exec i { s with calls := rest }) ∧
    (∀ v : Half, (∀ code ∈ s.cfg.lcdCommands, v ≠ code.setWidth 16) →
      step { s with calls := .lbw (0#1 ++ v) :: rest } = .refused (.notAnEncoding .notAnLcdCommand)) ∧
    (∀ code : Byte, code ∈ s.cfg.lcdCommands → ∃ i, lcdFrameOf s.cfg i = some (code, []) ∧
      step { s with calls := .lbw (0#1 ++ code.setWidth 16) :: rest } = exec i { s with calls := rest }) ∧
    (∀ v : Half, step { s with calls := .lbw (1#1 ++ v) :: rest } = exec (.lcdPix v) { s with calls := rest })

/-- One step takes the host's next call and runs the instruction it decodes to (R260). The list of pending calls, and that
nothing changes when it is empty, are the model's choice (log entry 2); so is the last clause, that a call which decodes
to nothing is refused (log entry 11). -/
def Obligations.StepRunsTheDecodedCall : Prop :=
  ∀ s : State,
    (s.calls = [] → step s = .next s) ∧
    (∀ call rest i, s.calls = call :: rest → decode s.cfg call = .ok i → step s = exec i { s with calls := rest }) ∧
    (∀ call rest why, s.calls = call :: rest → decode s.cfg call = .error why → step s = .refused (.notAnEncoding why))

/-- The block never sends a touch byte outside the three (R118). -/
def Obligations.OnlyThreeTouchBytesSent : Prop :=
  ∀ (i : Instr) (s t : State), exec i s = .next t →
    ∃ es, t.traceF = s.traceF ++ es ∧ ∀ code r, EventF.tch (.tchXchg code r) ∈ es → code ∈ s.cfg.touchCommands

/-- The block never issues an LCD command outside the fifteen, and no operation issues `CMD_DYN_BL` (R117). -/
def Obligations.OnlyKnownCommandsIssued : Prop :=
  ∀ (i : Instr) (s t : State), exec i s = .next t →
    ∃ es, t.traceF = s.traceF ++ es ∧ (∀ code, EventF.lcd (.lcdCmd code) ∈ es → code ∈ s.cfg.lcdCommands) ∧
      (s.cfg.Legal → isOperation i = true → EventF.lcd (.lcdCmd s.cfg.cmdDynBl) ∉ es)

/-! ### State and reset (10_state.md, 70_reset_and_hazards.md) -/

/-- The reset values the spec gives: no previous press, neither unit initialised, not busy, the sampler idle, every pin
without value, the latch unknown, no working register, ring or sequencer position (R49). -/
def Obligations.ResetValues : Prop :=
  State.reset.prevPressed = false ∧ State.reset.lcdReady = false ∧ State.reset.tchReady = false ∧
  State.reset.busy = false ∧ State.reset.fsm = .idle ∧
  State.reset.pin = ⟨none, none, none, none, none, none, none, none, none⟩ ∧ State.reset.latch = none ∧
  State.reset.work = ⟨none, none, none, none, none, none, none, none⟩

/-- The invariant of the operation boundary holds after reset. -/
def Obligations.ResetMeetsInvariant : Prop := Inv State.reset

/-- Every step keeps the invariant: no operation running, no working register alive, each unit's lines at their idle
levels once it is initialised and without value before, the data lines equal to the latch, the touch dimensions in range
(R20, R28, R29, R50, R51, R191, R289). -/
def Obligations.EveryStepKeepsInvariant : Prop := ∀ s t : State, Inv s → step s = .next t → Inv t

/-- Of an instruction that completes from an operation boundary: both chip-selects are negated at its end; inside it the
two are never asserted together, every falling edge of the strobe finds the controller selected, and every rising edge of
the touch clock the ADC selected (R289, R310, R166, R213). -/
def Obligations.ChipSelectDiscipline : Prop :=
  ∀ (i : Instr) (s t : State), Inv s → exec i s = .next t →
    Deselected t ∧ ∃ es, t.traceP = s.traceP ++ es ∧
      (∀ pre, pre <+: es → ¬ ((pre.foldl Pins.apply s.pin).lCs = some true ∧ (pre.foldl Pins.apply s.pin).tCs = some true)) ∧
      (∀ pre, pre ++ [.set .lWr false] <+: es → (pre.foldl Pins.apply s.pin).lCs = some true) ∧
      (∀ pre, pre ++ [.set .tClk true] <+: es → (pre.foldl Pins.apply s.pin).tCs = some true)

/-- Each pin holds the value of the most recent drive in the trace (R38): replaying an operation's level-P events over the
pins before gives the pins after. -/
def Obligations.PinsFollowTheTrace : Prop :=
  ∀ (i : Instr) (s t : State), exec i s = .next t →
    ∃ es, t.traceP = s.traceP ++ es ∧ t.pin = es.foldl Pins.apply s.pin

/-- The calibration profile is written by TCH.INIT and MAP.CALIBRATE and by nothing else, the orientation and the
dimensions by TCH.INIT and by nothing else (R25). -/
def Obligations.ConfigurationRegistersWritten : Prop :=
  ∀ (i : Instr) (s t : State), exec i s = .next t →
    ((∀ x y f, i ≠ .tchInit x y f) → t.ori = s.ori ∧ t.tdim = s.tdim) ∧
    ((∀ x y f, i ≠ .tchInit x y f) → (∀ a b c d m, i ≠ .mapCalibrate a b c d m) → t.cal = s.cal)

/-- `lcd_ready` is set by LCD.INIT, `tch_ready` by TCH.INIT, and nothing else writes them; `prev_pressed` is written by
TCH.POLL and TCH.INIT only (R26, R27); a completed instruction leaves the block not busy with its sampler idle (R28, R29);
nothing writes the configuration or takes a pending call (log entries 1, 2). -/
def Obligations.FlagsWritten : Prop :=
  ∀ (i : Instr) (s t : State), exec i s = .next t →
    (i = .lcdInit → t.lcdReady = true) ∧ (i ≠ .lcdInit → t.lcdReady = s.lcdReady) ∧
    (∀ x y f, i = .tchInit x y f → t.tchReady = true ∧ t.prevPressed = false) ∧
    ((∀ x y f, i ≠ .tchInit x y f) → t.tchReady = s.tchReady ∧ (i ≠ .tchPoll → t.prevPressed = s.prevPressed)) ∧
    t.busy = false ∧ t.fsm = .idle ∧ t.work = Work.idle ∧ t.cfg = s.cfg ∧ t.calls = s.calls

/-- Refusals: the first condition of the table of R276 that holds, in the order of R278, decides; where none holds, the
instruction completes (R270, R277). The callback returns (the rest of premise H7 of R312 is not needed: log entry 9). The
conditions of the frame rows are the model's choice (log entry 7). -/
def Obligations.RefusedExactlyByTheTable : Prop :=
  ∀ (i : Instr) (s : State), s.cfg.callback ≠ .neverReturns →
    (∀ r, refusalOf i s = some r → exec i s = .refused r) ∧ (refusalOf i s = none → ∃ t, exec i s = .next t)

/-- While an operation runs, every one of the twelve operations is refused `Busy`. So an operation the flush-complete
callback issues is refused, the Flush being still at work, and the Flush completes as it does without (R283, R264). A
callback that never returns leaves the Flush stuck (V17; log entry 9). -/
def Obligations.NoReentrancy : Prop :=
  (∀ (i : Instr) (s : State), s.busy = true → isOperation i = true → exec i s = .refused .busy) ∧
  (∀ (r : Region) (buf : List Half) (s : State), s.busy = false → s.lcdReady = true → bufferShort (.lcdFlush r buf) s.cfg = false →
    (s.cfg.callback = .issuesOperation →
      (∀ i, isOperation i = true → exec i (lcdEvents (flushEvents s.cfg r buf) (s.setBusy true)) = .refused .busy) ∧
      ∃ t, exec (.lcdFlush r buf) s = .next t ∧ t.traceF = s.traceF ++ (flushEvents s.cfg r buf).map .lcd ∧
        t.result = .nothing ∧ t = lcdPart s t) ∧
    (s.cfg.callback = .neverReturns → exec (.lcdFlush r buf) s = .fault .callbackNeverReturns))

/-- Whether an operation has a next step never depends on an environment answer: with any other answers, supplied or free,
it is refused for the same reason, faults in the same way, or completes as well (R19). -/
def Obligations.EnvironmentNeverDecidesTheStep : Prop :=
  ∀ (i : Instr) (s : State) (tdi rdy : List Bool) (asked : Nat),
    (∀ r, exec i s = .refused r ↔ exec i { s with tdi := tdi, rdy := rdy, asked := asked } = .refused r) ∧
    (∀ f, exec i s = .fault f ↔ exec i { s with tdi := tdi, rdy := rdy, asked := asked } = .fault f)

/-- An instruction outside the touch family learns nothing from the touch inputs: with other answers it ends in the same
state but for the answers themselves, which it leaves as they were (R19, R150, R230). -/
def Obligations.OnlyTouchReadsInputs : Prop :=
  ∀ (i : Instr) (s t : State) (tdi rdy : List Bool) (asked : Nat), asksEnvironment i = false → exec i s = .next t →
    exec i { s with tdi := tdi, rdy := rdy, asked := asked } = .next { t with tdi := tdi, rdy := rdy, asked := asked } ∧
    t.tdi = s.tdi ∧ t.rdy = s.rdy ∧ t.asked = s.asked

/-! ### Bus timing (40_bus_timing.md) -/

/-- BTP.PULSE: strobe low, the named spin, strobe high; the latched value is delivered, as a command or as data by `L_DC`
(R131, R42). Nothing else changes. The level-F event is a repeat-strobe, the model's reading of "one strobe" (log entry 8);
the fields `delivered` and `result` are the model's (log entries 5, 6). -/
def Obligations.BtpPulseResult : Prop :=
  ∀ (s : State) (v : Half), s.busy = false → s.lcdReady = true → s.pin.lCs = some true → s.latch = some v →
    exec .btpPulse s = .next { s with
      fsm := .idle
      work := .idle
      pin := { s.pin with lWr := some true }
      result := .nothing
      traceF := s.traceF ++ [.lcd .lcdRpt]
      traceP := s.traceP ++ [.set .lWr false, .spin .tStrobeLow, .set .lWr true]
      delivered := s.delivered ++ (match s.pin.lDc with
        | some dc => [{ dc := dc, value := v, kind := .repeated }]
        | none => []) }

/-- BTP.WLB: the seven events of R134; the latch holds the value; the pulse delivers it. Nothing else changes. The level-F
event is one write of the value, its kind given by `L_DC`: a pixel write where that is data, else the model's own event
(log entry 8). -/
def Obligations.BtpWlbResult : Prop :=
  ∀ (s : State) (v : Half), s.busy = false → s.lcdReady = true → s.pin.lCs = some true →
    exec (.btpWlb v) s = .next { s with
      fsm := .idle
      work := .idle
      pin := { s.pin with lLe := some false, dl := some v, lWr := some true }
      latch := some v
      result := .nothing
      traceF := s.traceF ++ [.lcd (if s.pin.lDc = some true then .lcdPix v else .lcdWrite s.pin.lDc v)]
      traceP := s.traceP ++ [.set .lLe true, .setData v, .spin .tLatchSetup, .set .lLe false,
        .set .lWr false, .spin .tStrobeLow, .set .lWr true]
      delivered := s.delivered ++ (match s.pin.lDc with
        | some dc => [{ dc := dc, value := v, kind := .latched }]
        | none => []) }

/-- In every state at an operation boundary a BTP operation issued directly is refused: `NotSelected` once LCD.INIT has
completed (R132), `NotInitialised` before (R276). -/
def Obligations.BtpNeverIssuableAtBoundary : Prop :=
  ∀ (s : State) (v : Half), Inv s →
    (s.lcdReady = true → exec .btpPulse s = .refused .notSelected ∧ exec (.btpWlb v) s = .refused .notSelected) ∧
    (s.lcdReady = false → exec .btpPulse s = .refused .notInitialised ∧ exec (.btpWlb v) s = .refused .notInitialised)

/-- The table of R136: the level-P list of each LCD event, and the state after it. The row of `lcdWrite`, which R17 does
not have, is the model's (log entry 8). -/
def Obligations.LcdEventExpansion : Prop :=
  ∀ (s : State) (e : LcdEvent),
    (lcdEvent s e).traceP = s.traceP ++ e.levelP ∧
    match e with
    | .pinSetup => (lcdEvent s e).pin =
        { s.pin with lCs := some false, lWr := some true, lDc := some true, lLe := some false, lRst := some false } ∧
        (lcdEvent s e).latch = s.latch
    | .lcdReset => (lcdEvent s e).pin = { s.pin with lRst := some false } ∧ (lcdEvent s e).latch = s.latch
    | .lcdSel => (lcdEvent s e).pin = { s.pin with lCs := some true } ∧ (lcdEvent s e).latch = s.latch
    | .lcdDesel => (lcdEvent s e).pin = { s.pin with lCs := some false } ∧ (lcdEvent s e).latch = s.latch
    | .lcdCmd c => (lcdEvent s e).pin =
        { s.pin with lDc := some true, lLe := some false, lWr := some true, dl := some (c.setWidth 16) } ∧
        (lcdEvent s e).latch = some (c.setWidth 16)
    | .lcdData d => (lcdEvent s e).pin =
        { s.pin with lLe := some false, lWr := some true, dl := some (d.setWidth 16) } ∧
        (lcdEvent s e).latch = some (d.setWidth 16)
    | .lcdPix p => (lcdEvent s e).pin = { s.pin with lLe := some false, lWr := some true, dl := some p } ∧
        (lcdEvent s e).latch = some p
    | .lcdWrite _ v => (lcdEvent s e).pin = { s.pin with lLe := some false, lWr := some true, dl := some v } ∧
        (lcdEvent s e).latch = some v
    | .lcdRpt => (lcdEvent s e).pin = { s.pin with lWr := some true } ∧ (lcdEvent s e).latch = s.latch
    | .delayMs _ => (lcdEvent s e).pin = s.pin ∧ (lcdEvent s e).latch = s.latch
    | .flushDone => (lcdEvent s e).pin = s.pin ∧ (lcdEvent s e).latch = s.latch

/-- Level P refines level F: what an instruction adds to the level-P trace is the expansion, event by event, of what it
adds to the level-F trace (R8, R136, R193). The level-F events of the two bus primitives issued directly are the model's
choice (log entry 8). -/
def Obligations.LevelPExpandsLevelF : Prop :=
  ∀ (i : Instr) (s t : State), s.cfg.respSkip ≤ 4 → exec i s = .next t →
    ∃ es, t.traceF = s.traceF ++ es ∧ t.traceP = s.traceP ++ es.flatMap (EventF.levelP s.cfg)

/-! ### LCD controller (41_lcd_controller.md) -/

/-- LCD.INIT performs exactly the steps S0 to S13 of R153 in order, with the clear of R154 when it is configured, sets
`lcd_ready`, and changes nothing but the LCD lines, the latch and the traces (R151, R153, R154). The controller receives
the frames of S1 to S10, the clear, the frames of S12 and S13, and nothing else (R42); `delivered` is the model's field
(log entry 6). -/
def Obligations.LcdInitRunsTheTable : Prop :=
  ∀ s : State, s.busy = false → s.lcdReady = false → 1 ≤ s.cfg.panelW → 1 ≤ s.cfg.panelH →
    ∃ t, exec .lcdInit s = .next t ∧ t.traceF = s.traceF ++ (initEvents s.cfg).map .lcd ∧ t.result = .nothing ∧
      t.delivered = s.delivered ++ initWords s.cfg ∧ t = { lcdPart s t with lcdReady := true }

/-- The state after a completed LCD.INIT (R50): every LCD line at its idle level; the data lines and the latch hold the
last byte of `ARGS_BL_PWM`, or `CMD_BL_PWM` if that list is empty; touch state unchanged. -/
def Obligations.LcdInitEndState : Prop :=
  ∀ s t : State, exec .lcdInit s = .next t →
    t.lcdReady = true ∧ t.pin.lRst = some false ∧ t.pin.lCs = some false ∧ t.pin.lDc = some true ∧
    t.pin.lWr = some true ∧ t.pin.lLe = some false ∧
    t.latch = some ((s.cfg.argsBlPwm.getLastD s.cfg.cmdBlPwm).setWidth 16) ∧ t.pin.dl = t.latch ∧
    t.cal = s.cal ∧ t.ori = s.ori ∧ t.tdim = s.tdim ∧ t.prevPressed = s.prevPressed ∧ t.tchReady = s.tchReady ∧
    t.pin.tCs = s.pin.tCs ∧ t.pin.tClk = s.pin.tClk ∧ t.pin.tDo = s.pin.tDo

/-- A point of the panel is in the clipped region exactly when it is in the region; the clip is empty exactly when the
region does not meet the panel; both for every region, inverted ones included (R157, R158). -/
def Obligations.ClipIsIntersection : Prop :=
  ∀ (c : Config) (r : Region),
    (∀ x y : Int, ((clip c r).cx1 ≤ x ∧ x ≤ (clip c r).cx2 ∧ (clip c r).cy1 ≤ y ∧ y ≤ (clip c r).cy2) ↔
      ((r.x1.toInt ≤ x ∧ x ≤ r.x2.toInt ∧ r.y1.toInt ≤ y ∧ y ≤ r.y2.toInt) ∧
        (0 ≤ x ∧ x < c.panelW ∧ 0 ≤ y ∧ y < c.panelH))) ∧
    ((clip c r).isEmpty = true ↔ ¬ ∃ x y : Int,
      (r.x1.toInt ≤ x ∧ x ≤ r.x2.toInt ∧ r.y1.toInt ≤ y ∧ y ≤ r.y2.toInt) ∧ (0 ≤ x ∧ x < c.panelW ∧ 0 ≤ y ∧ y < c.panelH))

/-- Every index a Flush reads lies in the buffer, and distinct points of the clipped region have distinct indices; the
largest index is that of the last point (R63, R64, R277). -/
def Obligations.FlushReadsInsideBuffer : Prop :=
  ∀ (c : Config) (r : Region) (buf : List Half), (clip c r).isEmpty = false →
    bufferLongEnough r (clip c r) buf = true →
    ∀ x y : Int, (clip c r).cx1 ≤ x → x ≤ (clip c r).cx2 → (clip c r).cy1 ≤ y → y ≤ (clip c r).cy2 →
      0 ≤ bufIndex r x y ∧ bufIndex r x y ≤ bufIndex r (clip c r).cx2 (clip c r).cy2 ∧
      buf[(bufIndex r x y).toNat]? = some (memRead buf (bufIndex r x y)) ∧
      ∀ x' y' : Int, (clip c r).cx1 ≤ x' → x' ≤ (clip c r).cx2 → (clip c r).cy1 ≤ y' → y' ≤ (clip c r).cy2 →
        bufIndex r x' y' = bufIndex r x y → x' = x ∧ y' = y

/-- LCD.FLUSH emits the events of R160: nothing but the completion for an empty clip; otherwise select, window, memory
write, the rows of the clipped region in order, deselect, completion. It changes nothing but the LCD lines, the latch and
the traces (R156, R160, R161, R162). -/
def Obligations.FlushRunsThePseudocode : Prop :=
  ∀ (r : Region) (buf : List Half) (s : State), s.busy = false → s.lcdReady = true → s.cfg.callback ≠ .neverReturns →
    ((clip s.cfg r).isEmpty = true ∨ bufferLongEnough r (clip s.cfg r) buf = true) →
    ∃ t, exec (.lcdFlush r buf) s = .next t ∧ t.traceF = s.traceF ++ (flushEvents s.cfg r buf).map .lcd ∧
      t.result = .nothing ∧ t = lcdPart s t

/-- An empty clipped region: exactly the completion event at both levels, whatever the buffer; no pin and no latch change
(R159). -/
def Obligations.FlushEmptyRegion : Prop :=
  ∀ (r : Region) (buf : List Half) (s : State), s.busy = false → s.lcdReady = true → s.cfg.callback ≠ .neverReturns →
    ((clip s.cfg r).cx1 > (clip s.cfg r).cx2 ∨ (clip s.cfg r).cy1 > (clip s.cfg r).cy2) →
    exec (.lcdFlush r buf) s = .next { s with
      fsm := .idle
      work := .idle
      result := .nothing
      traceF := s.traceF ++ [.lcd .flushDone]
      traceP := s.traceP ++ [.callback] }

/-- Completion is signalled exactly once per Flush, as its last event; on the non-empty path it follows `LcdDesel`
(R164). -/
def Obligations.FlushSignalsOnce : Prop :=
  ∀ (r : Region) (buf : List Half) (s t : State), exec (.lcdFlush r buf) s = .next t →
    ∃ es, t.traceF = s.traceF ++ es ++ [.lcd .flushDone] ∧ .lcd .flushDone ∉ es ∧
      ((clip s.cfg r).isEmpty = false → ∃ fs, es = fs ++ [.lcd .lcdDesel])

/-- The run rule: the first pixel of a row is a new-value write; a later one is a repeat-strobe exactly when all its
sixteen bits equal those of the pixel before it in the row (R162). -/
def Obligations.RunRule : Prop :=
  ∀ row : List Half,
    runCode none row = (List.range row.length).map fun j =>
      if 1 ≤ j ∧ row[j]? = row[j - 1]? then LcdEvent.lcdRpt else .lcdPix (row.getD j 0#16)

/-- Counts of a row: 1 plus the number of places where the value changes are new-value writes, the rest repeat-strobes; a
constant-colour row has one new-value write (R163). -/
def Obligations.RunCounts : Prop :=
  (∀ (p : Half) (row : List Half),
    newValueWrites (runCode none (p :: row)) =
      1 + (List.range' 1 row.length).countP (fun j => (p :: row)[j]? ≠ (p :: row)[j - 1]?) ∧
    repeatStrobes (runCode none (p :: row)) + newValueWrites (runCode none (p :: row)) = row.length + 1) ∧
  (∀ rows : List (List Half),
    newValueWrites (streamEvents rows) = (rows.map fun row => newValueWrites (runCode none row)).sum ∧
    repeatStrobes (streamEvents rows) = (rows.map fun row => repeatStrobes (runCode none row)).sum) ∧
  (∀ (n m : Nat) (p : Half),
    newValueWrites (streamEvents (List.replicate n (List.replicate (m + 1) p))) = n ∧
    repeatStrobes (streamEvents (List.replicate n (List.replicate (m + 1) p))) = n * m)

/-- A non-empty Flush with N new-value writes and M repeat-strobes adds 86 + 7 N + 3 M events to the level-P trace
(R168), and N + M is the number of pixels of its window (R160, R315). -/
def Obligations.FlushSize : Prop :=
  ∀ (r : Region) (buf : List Half) (s t : State), (clip s.cfg r).isEmpty = false → exec (.lcdFlush r buf) s = .next t →
    let n := newValueWrites (flushEvents s.cfg r buf)
    let m := repeatStrobes (flushEvents s.cfg r buf)
    t.traceF = s.traceF ++ (flushEvents s.cfg r buf).map .lcd ∧
    t.traceP.length = s.traceP.length + (86 + 7 * n + 3 * m) ∧
    ((n + m : Nat) : Int) =
      ((clip s.cfg r).cy2 - (clip s.cfg r).cy1 + 1) * ((clip s.cfg r).cx2 - (clip s.cfg r).cx1 + 1)

/-- A decoder that replaces each repeat-strobe by the value of the write before it recovers from the trace of a Flush
exactly the pixels of the clipped region, row by row (R103, R76). -/
def Obligations.FlushTraceDecodesToPixels : Prop :=
  ∀ (r : Region) (buf : List Half) (s t : State), (clip s.cfg r).isEmpty = false → exec (.lcdFlush r buf) s = .next t →
    ∃ es : List LcdEvent, t.traceF = s.traceF ++ es.map .lcd ∧
      recoverPixels none es = (clippedRows r (clip s.cfg r) buf).flatten

/-- What the controller receives in a non-empty Flush: the column window, the row window and the memory-write command,
each byte as the bus carries it, and then one data word per pixel of the clipped region, row by row, holding that pixel
whether it was latched or repeated (R42, R100, R103, R106, R160). `delivered` is the model's field (log entry 6). -/
def Obligations.FlushDeliversClippedPixels : Prop :=
  ∀ (r : Region) (buf : List Half) (s t : State), s.pin.lDc = some true → (clip s.cfg r).isEmpty = false →
    exec (.lcdFlush r buf) s = .next t →
    ∃ ws, t.delivered = s.delivered ++
        frameWords s.cfg.cmdColAddr (boundBytes (boundHalf (clip s.cfg r).cx1) (boundHalf (clip s.cfg r).cx2)) ++
        frameWords s.cfg.cmdRowAddr (boundBytes (boundHalf (clip s.cfg r).cy1) (boundHalf (clip s.cfg r).cy2)) ++
        frameWords s.cfg.cmdMemWrite [] ++ ws ∧
      ws.map BusWord.value = (clippedRows r (clip s.cfg r) buf).flatten ∧ ∀ w ∈ ws, w.dc = true

/-- Every window bound a Flush sends lies inside the panel with lo not above hi; the four argument bytes of a window
command are lo and hi, each with its high byte first, and the two bytes of a bound are its value (R106, R68, R289). -/
def Obligations.WindowBoundsInsidePanel : Prop :=
  ∀ (c : Config) (r : Region), c.panelW ≤ 65536 → c.panelH ≤ 65536 → (clip c r).isEmpty = false →
    (boundHalf (clip c r).cx1).toNat ≤ (boundHalf (clip c r).cx2).toNat ∧ (boundHalf (clip c r).cx2).toNat < c.panelW ∧
    (boundHalf (clip c r).cy1).toNat ≤ (boundHalf (clip c r).cy2).toNat ∧ (boundHalf (clip c r).cy2).toNat < c.panelH ∧
    ((boundHalf (clip c r).cx1).toNat : Int) = (clip c r).cx1 ∧ ((boundHalf (clip c r).cx2).toNat : Int) = (clip c r).cx2 ∧
    ((boundHalf (clip c r).cy1).toNat : Int) = (clip c r).cy1 ∧ ((boundHalf (clip c r).cy2).toNat : Int) = (clip c r).cy2 ∧
    (∀ lo hi : Half, boundBytes lo hi = [hiByte lo, loByte lo, hiByte hi, loByte hi]) ∧
    ∀ v : Half, 256 * (hiByte v).toNat + (loByte v).toNat = v.toNat

/-! ### Touch sampler (42_touch_sampler.md) -/

/-- One touch exchange at level P (R193): eight command bits, most significant first; `T_DO` low; sixteen response clocks,
the middle twelve sampled; the result holds the sampled bits, bit 11 first (R110). It touches no LCD line, no
configuration register and no flag (R190). -/
def Obligations.ExchangeProtocol : Prop :=
  ∀ (c : Byte) (s : State), s.cfg.respSkip ≤ 4 →
    let r := (exchange c s).1
    let t := (exchange c s).2
    t.traceF = s.traceF ++ [.tch (.tchXchg c r)] ∧
    t.traceP = s.traceP ++
      ((List.range 8).flatMap fun j => [.set .tDo (c.getLsbD (7 - j)), .spin .tTouchBit, .set .tClk true, .spin .tTouchBit,
        .set .tClk false]) ++ [.set .tDo false] ++
      ((List.range' 1 16).flatMap fun k => [.spin .tTouchBit, .set .tClk true, .spin .tTouchBit, .set .tClk false,
        .spin .tTouchBit] ++ (if s.cfg.respSkip < k ∧ k ≤ s.cfg.respSkip + 12 then
          [.get .tDi (r.getLsbD (s.cfg.respSkip + 12 - k))] else [])) ∧
    t.traceP.length = s.traceP.length + 133 ∧
    t = { s with pin := { s.pin with tClk := some false, tDo := some false }, work := { s.work with xchg := none },
                 tdi := t.tdi, asked := t.asked, traceF := t.traceF, traceP := t.traceP }

/-- TCH.READCH issued directly: one bracketed exchange with the channel's command byte, its result handed back; when the
environment's next twelve answers are the bits of `r`, most significant first, the result is `r`. Nothing but the touch
lines and the traces changes (R196, R214). -/
def Obligations.ReadChannelResult : Prop :=
  ∀ (ch : Channel) (s : State), s.busy = false → s.tchReady = true →
    ∃ r t, exec (.tchReadch ch) s = .next t ∧ t.result = .raw r ∧
      t.traceF = s.traceF ++ [.tch .tchSel,
        .tch (.tchXchg (match ch with | .x => s.cfg.cmdTouchX | .y => s.cfg.cmdTouchY) r), .tch .tchDesel] ∧
      t.pin.tCs = some false ∧ t.pin.tClk = some false ∧ t.pin.tDo = some false ∧ t = touchPart s t ∧
      ∀ r' rest, s.cfg.respSkip ≤ 4 →
        s.tdi = ((List.range 12).map fun j => (r' : Raw).getLsbD (11 - j)) ++ rest → r = r' ∧ t.tdi = rest

/-- TCH.DENOISE issued directly: the readings of R199 between select and deselect, its result the mean of the last check;
nothing but the touch lines and the traces changes (R199, R203, R204, R214). `RING_N >= 1` is a legal configuration
(R10). -/
def Obligations.DenoiseResult : Prop :=
  ∀ (ch : Channel) (s : State), s.busy = false → s.tchReady = true → 1 ≤ s.cfg.ringN →
    ∃ xs v t, exec (.tchDenoise ch) s = .next t ∧ IsDenoise s.cfg xs v ∧ t.result = .raw v ∧
      t.traceF = s.traceF ++ ([TchEvent.tchSel] ++ readings s.cfg ch xs ++ [TchEvent.tchDesel]).map .tch ∧
      t.pin.tCs = some false ∧ t = touchPart s t

/-- The readings determine a Denoise: when the readings of one begin with those of another, they are the same readings
and the result is the same (R199, R203). It is about the predicate `IsDenoise`, which `DenoiseResult` says TCH.DENOISE
meets. -/
def Obligations.DenoiseDeterminedByReadings : Prop :=
  ∀ (c : Config) (xs ys zs : List Raw) (v w : Raw), IsDenoise c xs v → IsDenoise c ys w → xs ++ zs = ys → xs = ys ∧ v = w

/-- The sampler state at the moment Denoise returns is Accepted when the last check passed and BestEffort otherwise;
afterwards it is Idle and the ring is dead (R28, R199). -/
def Obligations.SamplerVerdict : Prop :=
  ∀ (ch : Channel) (s : State), 1 ≤ s.cfg.ringN →
    (∃ xs, (denoiseRun ch s).2.traceF = s.traceF ++ (readings s.cfg ch xs).map .tch ∧ IsDenoise s.cfg xs (denoiseRun ch s).1 ∧
      (denoiseRun ch s).2.fsm =
        if windowOk s.cfg xs (xs.length - s.cfg.ringN) then Fsm.accepted else Fsm.bestEffort) ∧
    (denoise ch s).1 = (denoiseRun ch s).1 ∧ (denoise ch s).2.fsm = .idle ∧ (denoise ch s).2.work.ring = none

/-- The ring of a Denoise (R34, R35). After the fill and any number of replacements the running sum is the sum of the
entries, there are `RING_N` of them, and `oldest` is the number of replacements modulo `RING_N`. At the check a Denoise
returns from, the attempt being `a`, `a - 1` entries have been replaced, the same holds of the ring's registers, and
`mean` is the result. -/
def Obligations.RingSumAndOldest : Prop :=
  ∀ (ch : Channel) (s : State), 1 ≤ s.cfg.ringN →
    (∀ rs : List Raw,
      let g := rs.foldl (replaceOldest s.cfg) (fillRing s.cfg.ringN ch .empty s).1
      g.entries.length = s.cfg.ringN ∧ g.sum = (g.entries.map BitVec.toNat).sum ∧ g.oldest = rs.length % s.cfg.ringN) ∧
    ∃ (xs entries : List Raw) (a : Nat), 1 ≤ a ∧
      (denoiseRun ch s).2.traceF = s.traceF ++ (readings s.cfg ch xs).map .tch ∧ xs.length = s.cfg.ringN + (a - 1) ∧
      entries.length = s.cfg.ringN ∧
      (denoiseRun ch s).2.work.ring = some {
        entries := entries
        sum := (entries.map BitVec.toNat).sum
        oldest := some ((a - 1) % s.cfg.ringN)
        attempt := some a
        mean := some (denoiseRun ch s).1 }

/-- A ring whose readings are all equal converges on the first attempt: with the environment answering `r` at every
exchange, TCH.DENOISE returns `r` after exactly `RING_N` exchanges (R199, R203). -/
def Obligations.EqualReadingsConvergeAtOnce : Prop :=
  ∀ (ch : Channel) (s : State) (r : Raw) (rest : List Bool), s.busy = false → s.tchReady = true → 1 ≤ s.cfg.ringN →
    s.cfg.respSkip ≤ 4 → s.tdi = (List.replicate s.cfg.ringN (responseBits r)).flatten ++ rest →
    ∃ t, exec (.tchDenoise ch) s = .next t ∧ t.result = .raw r ∧ t.tdi = rest ∧
      t.traceF = s.traceF ++
        ([TchEvent.tchSel] ++ readings s.cfg ch (List.replicate s.cfg.ringN r) ++ [TchEvent.tchDesel]).map .tch

/-- TCH.POLL with no contact at the first check: one ready sample and nothing else; pressed = false (R206, R208, R209). -/
def Obligations.PollWithoutContact : Prop :=
  ∀ (s : State) (rest : List Bool), s.busy = false → s.tchReady = true → s.rdy = false :: rest →
    exec .tchPoll s = .next { s with
      prevPressed := false
      fsm := .idle
      work := .idle
      rdy := rest
      result := .touch { pressed := false, x := none, y := none, again := false } none
      traceF := s.traceF ++ [.tch (.tchReady false)]
      traceP := s.traceP ++ [.get .tRdy false] }

/-- TCH.POLL with contact at the first check, the second check answering `b`: select, the readings of X, those of Y, the
power-down exchange, the second check, deselect. If `b`, the pair is oriented and each component calibrated, `repeat` is
the previous poll's `pressed`, and the raw pair is handed back; if not, the sample is discarded. Nothing else changes
(R206, R210, R213, R245). -/
def Obligations.PollWithContact : Prop :=
  ∀ (s : State) (b : Bool) (rest : List Bool), s.busy = false → s.tchReady = true → 1 ≤ s.cfg.ringN →
    s.rdy = true :: b :: rest →
    ∃ xs ys rx ry r t, exec .tchPoll s = .next t ∧ IsDenoise s.cfg xs rx ∧ IsDenoise s.cfg ys ry ∧
      t.traceF = s.traceF ++ ([TchEvent.tchReady true, .tchSel] ++ readings s.cfg .x xs ++ readings s.cfg .y ys ++
        [TchEvent.tchXchg s.cfg.cmdTouchPd r, TchEvent.tchReady b, TchEvent.tchDesel]).map .tch ∧
      t.result = (if b then
        .touch {
          pressed := true
          x := some (applyCal (orient rx ry s.ori).1 s.cal.scaleX s.cal.offsetX s.tdim.x)
          y := some (applyCal (orient rx ry s.ori).2 s.cal.scaleY s.cal.offsetY s.tdim.y)
          again := s.prevPressed } (some (rx, ry))
        else .touch { pressed := false, x := none, y := none, again := false } none) ∧
      t.rdy = rest ∧ t.pin.tCs = some false ∧ t = { touchPart s t with prevPressed := b }

/-- Every TCH.POLL, whatever the environment answers: it completes; `prev_pressed` becomes the event's `pressed`;
`repeat` holds exactly when pressed and the previous poll was pressed; a released event carries no coordinate and no raw
pair; a pressed one carries both coordinates, each inside its dimension, and the pair (R207, R208, R98, R289). The
dimensions are at least 1 once TCH.INIT has run (R24). -/
def Obligations.PollEvent : Prop :=
  ∀ s : State, s.busy = false → s.tchReady = true → 1 ≤ s.cfg.ringN → 1 ≤ s.tdim.x → 1 ≤ s.tdim.y →
    ∃ t e pair, exec .tchPoll s = .next t ∧ t.result = .touch e pair ∧ t.prevPressed = e.pressed ∧
      e.again = (e.pressed && s.prevPressed) ∧
      (if e.pressed then ∃ x y, e.x = some x ∧ e.y = some y ∧ x < s.tdim.x ∧ y < s.tdim.y ∧ pair.isSome = true
        else e.x = none ∧ e.y = none ∧ pair = none)

/-- The number of touch exchanges of a TCH.POLL: none without contact, else between 2 RING_N + 1 and
2 (RING_N + MAX_ATTEMPTS - 1) + 1 (R211, for every configuration). -/
def Obligations.PollExchangeCount : Prop :=
  ∀ s t : State, 1 ≤ s.cfg.ringN → 1 ≤ s.cfg.maxAttempts → exec .tchPoll s = .next t →
    ∃ es, t.traceF = s.traceF ++ es ∧
      let n := es.countP isExchange
      (n = 0 ∧ es = [.tch (.tchReady false)]) ∨
        (2 * s.cfg.ringN + 1 ≤ n ∧ n ≤ 2 * (s.cfg.ringN + s.cfg.maxAttempts - 1) + 1 ∧ es.length = n + 4)

/-- TCH.INIT: pins, dimensions, flags, default profile, `prev_pressed` cleared, `tch_ready` set; LCD state and everything
else unchanged (R212, R51). -/
def Obligations.TchInitResult : Prop :=
  ∀ (x y : Nat) (f : Byte) (s : State), s.busy = false → s.tchReady = false → 1 ≤ x → x ≤ 65536 → 1 ≤ y → y ≤ 65536 →
    exec (.tchInit x y f) s = .next { s with
      cal := { scaleX := BitVec.ofNat 32 (x * 16), scaleY := BitVec.ofNat 32 (y * 16), offsetX := 0#32, offsetY := 0#32 }
      ori := BitVec.ofNat 3 f.toNat
      tdim := { x := x, y := y }
      prevPressed := false
      tchReady := true
      fsm := .idle
      work := .idle
      pin := { s.pin with tCs := some false, tClk := some false, tDo := some false }
      result := .nothing
      traceF := s.traceF ++ [.tch .tchSetup]
      traceP := s.traceP ++ [.config, .set .tCs false, .set .tClk false, .set .tDo false] }

/-- With the default profile raw 0 maps to pixel 0 and raw 4095 to `floor(4095 * dim / 4096)`, which is `dim - 1` for
every dimension up to 4096 (R212). -/
def Obligations.DefaultProfileSpansTheAxis : Prop :=
  ∀ d : Nat, 1 ≤ d → d ≤ 65536 →
    (defaultScale d).toNat = d * 16 ∧ applyCal 0#12 (defaultScale d) 0#32 d = 0 ∧
    applyCal 4095#12 (defaultScale d) 0#32 d = 4095 * d / 4096 ∧
    (d ≤ 4096 → applyCal 4095#12 (defaultScale d) 0#32 d = d - 1)

/-! ### Coordinate mapper (43_coordinate_mapper.md) -/

/-- MAP.ORIENT: swap first, then mirror each post-swap axis; bits above bit 2 of the flags are ignored; nothing but the
result changes (R231, R232, R115). -/
def Obligations.MapOrientResult : Prop :=
  ∀ (x y : Nat) (f : Byte) (s : State), s.busy = false → x ≤ 4095 → y ≤ 4095 →
    let a := if f.getLsbD 0 then y else x
    let b := if f.getLsbD 0 then x else y
    exec (.mapOrient x y f) s = .next { s with
      fsm := .idle
      work := .idle
      result := .rawPair (BitVec.ofNat 12 (if f.getLsbD 1 then 4095 - a else a))
        (BitVec.ofNat 12 (if f.getLsbD 2 then 4095 - b else b)) }

/-- The composition table of R233: orienting twice with the same flags gives the pair back for six flag values, and the
pair with both components mirrored for 3 and 5; the last column's flags undo each. -/
def Obligations.OrientComposition : Prop :=
  ∀ (x y : Raw) (f : Ori),
    let p := orient x y f
    orient p.1 p.2 f = (if f = 3#3 ∨ f = 5#3 then (4095#12 - x, 4095#12 - y) else (x, y)) ∧
    orient p.1 p.2 (if f = 3#3 then 5#3 else if f = 5#3 then 3#3 else f) = (x, y)

/-- MAP.APPLYCAL: exact product, floor shift, subtraction of the signed offset, clamp into [0, dimension - 1]; nothing but
the result changes (R234, R235, R236, R237). -/
def Obligations.MapApplycalResult : Prop :=
  ∀ (v : Nat) (scale offset : Word) (d : Nat) (s : State), s.busy = false → v ≤ 4095 → 1 ≤ d → d ≤ 65536 →
    exec (.mapApplycal v scale offset d) s = .next { s with
      fsm := .idle
      work := .idle
      result := .pixel (min (max ((v : Int) * scale.toNat / 65536 - offset.toInt) 0) ((d : Int) - 1)).toNat }

/-- The mapped coordinate is never outside [0, dimension - 1], and it is non-decreasing in the reading (R237, R239). -/
def Obligations.ApplycalInRangeAndMonotone : Prop :=
  ∀ (v w : Raw) (scale offset : Word) (d : Nat), 1 ≤ d →
    applyCal v scale offset d < d ∧ (v.toNat ≤ w.toNat → applyCal v scale offset d ≤ applyCal w scale offset d)

/-- MAP.CALIBRATE writes the four fields of the profile by the formula of R238, none of which overflows its register, and
nothing else. -/
def Obligations.MapCalibrateResult : Prop :=
  ∀ (xl xh yl yh : Nat) (m : Half) (s : State), s.busy = false → s.tchReady = true → xh ≤ 4095 → yh ≤ 4095 →
    xl < xh → yl < yh → 2 * m.toNat ≤ s.tdim.x - 1 → 2 * m.toNat ≤ s.tdim.y - 1 →
    dimOk s.tdim.x = true → dimOk s.tdim.y = true →
    ∃ k : Cal, exec (.mapCalibrate xl xh yl yh m) s =
        .next { s with cal := k, fsm := .idle, work := .idle, result := .nothing } ∧
      k.scaleX.toNat = (s.tdim.x - 1 - 2 * m.toNat) * 65536 / (xh - xl) ∧
      k.scaleY.toNat = (s.tdim.y - 1 - 2 * m.toNat) * 65536 / (yh - yl) ∧
      k.offsetX.toInt = ((xl * k.scaleX.toNat / 65536 : Nat) : Int) - m.toNat ∧
      k.offsetY.toInt = ((yl * k.scaleY.toNat / 65536 : Nat) : Int) - m.toNat

/-- What a calibration achieves on an axis: the low reading maps to the margin exactly, the high one to
dimension - 1 - margin or one pixel less, and the map is non-decreasing (R239). -/
def Obligations.CalibrationHitsTheMargins : Prop :=
  ∀ (xl xh yl yh : Nat) (m : Half) (s t : State), dimOk s.tdim.x = true → dimOk s.tdim.y = true →
    exec (.mapCalibrate xl xh yl yh m) s = .next t →
    let fx := fun v : Nat => applyCal (BitVec.ofNat 12 v) t.cal.scaleX t.cal.offsetX t.tdim.x
    let fy := fun v : Nat => applyCal (BitVec.ofNat 12 v) t.cal.scaleY t.cal.offsetY t.tdim.y
    fx xl = m.toNat ∧ (fx xh = t.tdim.x - 1 - m.toNat ∨ fx xh + 1 = t.tdim.x - 1 - m.toNat) ∧
    fy yl = m.toNat ∧ (fy yh = t.tdim.y - 1 - m.toNat ∨ fy yh + 1 = t.tdim.y - 1 - m.toNat) ∧
    ∀ v w, v ≤ w → w ≤ 4095 → fx v ≤ fx w ∧ fy v ≤ fy w

/-! ### Host interface (44_host_interface.md) -/

/-- SYS.TICK is accepted whenever no operation runs, is the identity on the state and emits nothing (R263). The field
`result` is the model's (log entry 5). -/
def Obligations.SysTickIsIdentity : Prop :=
  ∀ s : State, s.busy = false →
    exec .sysTick s = .next { s with fsm := .idle, work := .idle, result := .nothing } ∧
    (Quiescent s → s.result = .nothing → exec .sysTick s = .next s)

/-! ### The frame rows (30_encoding.md; log entry 7) -/

/-- Every LCD command frame, with any argument bytes, applied to a state with the controller selected, completes: the
command and its argument bytes in order at level F, delivered as one command word and data words; the latch holds the last
byte; nothing but the LCD lines, the latch and the traces changes (R100, R101, R104, R136). That a frame may be issued
directly, and when, is the model's choice, and so is that a frame whose argument bytes no operation would send runs as the
bytes it is (log entry 7). -/
def Obligations.LcdFramesComplete : Prop :=
  ∀ (i : Instr) (s : State) (code : Byte) (args : List Byte), lcdFrameOf s.cfg i = some (code, args) →
    s.busy = false → s.lcdReady = true → s.pin.lCs = some true →
    ∃ t, exec i s = .next t ∧ t.traceF = s.traceF ++ (LcdEvent.lcdCmd code :: args.map .lcdData).map .lcd ∧
      t.delivered = s.delivered ++ frameWords code args ∧ t.latch = some ((args.getLastD code).setWidth 16) ∧
      t.pin = { s.pin with lDc := some true, lLe := some false, lWr := some true, dl := t.latch } ∧
      t.result = .nothing ∧ t = lcdPart s t

/-- A pixel write with the controller selected: a new value latches and delivers it, a repeat-strobe delivers the latched
value again with nothing latched anew; nothing else changes (R100, R103, R136). Direct issue is the model's choice (log
entry 7). -/
def Obligations.PixelWritesComplete : Prop :=
  ∀ (s : State) (p v : Half), s.busy = false → s.lcdReady = true → s.pin.lCs = some true → s.pin.lDc = some true →
    exec (.lcdPix p) s = .next { s with
      fsm := .idle
      work := .idle
      pin := { s.pin with lLe := some false, dl := some p, lWr := some true }
      latch := some p
      result := .nothing
      traceF := s.traceF ++ [.lcd (.lcdPix p)]
      traceP := s.traceP ++ levelWL p
      delivered := s.delivered ++ [{ dc := true, value := p, kind := .latched }] } ∧
    (s.latch = some v → exec .lcdRpt s = .next { s with
      fsm := .idle
      work := .idle
      pin := { s.pin with lWr := some true }
      result := .nothing
      traceF := s.traceF ++ [.lcd .lcdRpt]
      traceP := s.traceP ++ levelPS
      delivered := s.delivered ++ [{ dc := true, value := v, kind := .repeated }] })

/-- A touch command byte: one exchange with that byte, inside the session if the touch chip-select is asserted and
bracketed otherwise; its result is handed back, but for the power-down variant, whose result is discarded (R111, R210);
nothing but the touch lines and the traces changes. Direct issue is the model's choice (log entry 7). -/
def Obligations.TouchFramesComplete : Prop :=
  ∀ (i : Instr) (s : State) (code : Byte), touchByteOf s.cfg i = some code → s.busy = false → s.tchReady = true →
    ∃ r t, exec i s = .next t ∧ t.result = (if i = .cmdTouchPd then .nothing else .raw r) ∧
      t.traceF = s.traceF ++ (if s.pin.tCs = some true then [.tch (.tchXchg code r)]
        else [.tch .tchSel, .tch (.tchXchg code r), .tch .tchDesel]) ∧
      t.pin.tCs = (if s.pin.tCs = some true then some true else some false) ∧ t = touchPart s t
end

