-- ==== Sys2Proof/Laws/State.lean ====
section
/-!
SUPPORT. One lemma per field per update of the state, each true by rfl, so that no later proof unfolds a record update;
and how updates of the working registers pass through the others.
-/

namespace Sys2Proof.Machine

/-! ### `setBusy` -/

section
variable (s : State) (b : Bool)

@[simp] theorem State.setBusy_cal : (s.setBusy b).cal = s.cal := rfl
@[simp] theorem State.setBusy_ori : (s.setBusy b).ori = s.ori := rfl
@[simp] theorem State.setBusy_tdim : (s.setBusy b).tdim = s.tdim := rfl
@[simp] theorem State.setBusy_prevPressed : (s.setBusy b).prevPressed = s.prevPressed := rfl
@[simp] theorem State.setBusy_lcdReady : (s.setBusy b).lcdReady = s.lcdReady := rfl
@[simp] theorem State.setBusy_tchReady : (s.setBusy b).tchReady = s.tchReady := rfl
@[simp] theorem State.setBusy_busy : (s.setBusy b).busy = b := rfl
@[simp] theorem State.setBusy_fsm : (s.setBusy b).fsm = s.fsm := rfl
@[simp] theorem State.setBusy_pin : (s.setBusy b).pin = s.pin := rfl
@[simp] theorem State.setBusy_latch : (s.setBusy b).latch = s.latch := rfl
@[simp] theorem State.setBusy_work : (s.setBusy b).work = s.work := rfl
@[simp] theorem State.setBusy_cfg : (s.setBusy b).cfg = s.cfg := rfl
@[simp] theorem State.setBusy_calls : (s.setBusy b).calls = s.calls := rfl
@[simp] theorem State.setBusy_tdi : (s.setBusy b).tdi = s.tdi := rfl
@[simp] theorem State.setBusy_rdy : (s.setBusy b).rdy = s.rdy := rfl
@[simp] theorem State.setBusy_asked : (s.setBusy b).asked = s.asked := rfl
@[simp] theorem State.setBusy_result : (s.setBusy b).result = s.result := rfl
@[simp] theorem State.setBusy_traceF : (s.setBusy b).traceF = s.traceF := rfl
@[simp] theorem State.setBusy_traceP : (s.setBusy b).traceP = s.traceP := rfl
@[simp] theorem State.setBusy_delivered : (s.setBusy b).delivered = s.delivered := rfl

end

/-! ### `setPressed` -/

section
variable (s : State) (b : Bool)

@[simp] theorem State.setPressed_cal : (s.setPressed b).cal = s.cal := rfl
@[simp] theorem State.setPressed_ori : (s.setPressed b).ori = s.ori := rfl
@[simp] theorem State.setPressed_tdim : (s.setPressed b).tdim = s.tdim := rfl
@[simp] theorem State.setPressed_prevPressed : (s.setPressed b).prevPressed = b := rfl
@[simp] theorem State.setPressed_lcdReady : (s.setPressed b).lcdReady = s.lcdReady := rfl
@[simp] theorem State.setPressed_tchReady : (s.setPressed b).tchReady = s.tchReady := rfl
@[simp] theorem State.setPressed_busy : (s.setPressed b).busy = s.busy := rfl
@[simp] theorem State.setPressed_fsm : (s.setPressed b).fsm = s.fsm := rfl
@[simp] theorem State.setPressed_pin : (s.setPressed b).pin = s.pin := rfl
@[simp] theorem State.setPressed_latch : (s.setPressed b).latch = s.latch := rfl
@[simp] theorem State.setPressed_work : (s.setPressed b).work = s.work := rfl
@[simp] theorem State.setPressed_cfg : (s.setPressed b).cfg = s.cfg := rfl
@[simp] theorem State.setPressed_calls : (s.setPressed b).calls = s.calls := rfl
@[simp] theorem State.setPressed_tdi : (s.setPressed b).tdi = s.tdi := rfl
@[simp] theorem State.setPressed_rdy : (s.setPressed b).rdy = s.rdy := rfl
@[simp] theorem State.setPressed_asked : (s.setPressed b).asked = s.asked := rfl
@[simp] theorem State.setPressed_result : (s.setPressed b).result = s.result := rfl
@[simp] theorem State.setPressed_traceF : (s.setPressed b).traceF = s.traceF := rfl
@[simp] theorem State.setPressed_traceP : (s.setPressed b).traceP = s.traceP := rfl
@[simp] theorem State.setPressed_delivered : (s.setPressed b).delivered = s.delivered := rfl

end

/-! ### `setLcdReady` -/

section
variable (s : State) (b : Bool)

@[simp] theorem State.setLcdReady_cal : (s.setLcdReady b).cal = s.cal := rfl
@[simp] theorem State.setLcdReady_ori : (s.setLcdReady b).ori = s.ori := rfl
@[simp] theorem State.setLcdReady_tdim : (s.setLcdReady b).tdim = s.tdim := rfl
@[simp] theorem State.setLcdReady_prevPressed : (s.setLcdReady b).prevPressed = s.prevPressed := rfl
@[simp] theorem State.setLcdReady_lcdReady : (s.setLcdReady b).lcdReady = b := rfl
@[simp] theorem State.setLcdReady_tchReady : (s.setLcdReady b).tchReady = s.tchReady := rfl
@[simp] theorem State.setLcdReady_busy : (s.setLcdReady b).busy = s.busy := rfl
@[simp] theorem State.setLcdReady_fsm : (s.setLcdReady b).fsm = s.fsm := rfl
@[simp] theorem State.setLcdReady_pin : (s.setLcdReady b).pin = s.pin := rfl
@[simp] theorem State.setLcdReady_latch : (s.setLcdReady b).latch = s.latch := rfl
@[simp] theorem State.setLcdReady_work : (s.setLcdReady b).work = s.work := rfl
@[simp] theorem State.setLcdReady_cfg : (s.setLcdReady b).cfg = s.cfg := rfl
@[simp] theorem State.setLcdReady_calls : (s.setLcdReady b).calls = s.calls := rfl
@[simp] theorem State.setLcdReady_tdi : (s.setLcdReady b).tdi = s.tdi := rfl
@[simp] theorem State.setLcdReady_rdy : (s.setLcdReady b).rdy = s.rdy := rfl
@[simp] theorem State.setLcdReady_asked : (s.setLcdReady b).asked = s.asked := rfl
@[simp] theorem State.setLcdReady_result : (s.setLcdReady b).result = s.result := rfl
@[simp] theorem State.setLcdReady_traceF : (s.setLcdReady b).traceF = s.traceF := rfl
@[simp] theorem State.setLcdReady_traceP : (s.setLcdReady b).traceP = s.traceP := rfl
@[simp] theorem State.setLcdReady_delivered : (s.setLcdReady b).delivered = s.delivered := rfl

end

/-! ### `setTchReady` -/

section
variable (s : State) (b : Bool)

@[simp] theorem State.setTchReady_cal : (s.setTchReady b).cal = s.cal := rfl
@[simp] theorem State.setTchReady_ori : (s.setTchReady b).ori = s.ori := rfl
@[simp] theorem State.setTchReady_tdim : (s.setTchReady b).tdim = s.tdim := rfl
@[simp] theorem State.setTchReady_prevPressed : (s.setTchReady b).prevPressed = s.prevPressed := rfl
@[simp] theorem State.setTchReady_lcdReady : (s.setTchReady b).lcdReady = s.lcdReady := rfl
@[simp] theorem State.setTchReady_tchReady : (s.setTchReady b).tchReady = b := rfl
@[simp] theorem State.setTchReady_busy : (s.setTchReady b).busy = s.busy := rfl
@[simp] theorem State.setTchReady_fsm : (s.setTchReady b).fsm = s.fsm := rfl
@[simp] theorem State.setTchReady_pin : (s.setTchReady b).pin = s.pin := rfl
@[simp] theorem State.setTchReady_latch : (s.setTchReady b).latch = s.latch := rfl
@[simp] theorem State.setTchReady_work : (s.setTchReady b).work = s.work := rfl
@[simp] theorem State.setTchReady_cfg : (s.setTchReady b).cfg = s.cfg := rfl
@[simp] theorem State.setTchReady_calls : (s.setTchReady b).calls = s.calls := rfl
@[simp] theorem State.setTchReady_tdi : (s.setTchReady b).tdi = s.tdi := rfl
@[simp] theorem State.setTchReady_rdy : (s.setTchReady b).rdy = s.rdy := rfl
@[simp] theorem State.setTchReady_asked : (s.setTchReady b).asked = s.asked := rfl
@[simp] theorem State.setTchReady_result : (s.setTchReady b).result = s.result := rfl
@[simp] theorem State.setTchReady_traceF : (s.setTchReady b).traceF = s.traceF := rfl
@[simp] theorem State.setTchReady_traceP : (s.setTchReady b).traceP = s.traceP := rfl
@[simp] theorem State.setTchReady_delivered : (s.setTchReady b).delivered = s.delivered := rfl

end

/-! ### `setCal` -/

section
variable (s : State) (c : Cal)

@[simp] theorem State.setCal_cal : (s.setCal c).cal = c := rfl
@[simp] theorem State.setCal_ori : (s.setCal c).ori = s.ori := rfl
@[simp] theorem State.setCal_tdim : (s.setCal c).tdim = s.tdim := rfl
@[simp] theorem State.setCal_prevPressed : (s.setCal c).prevPressed = s.prevPressed := rfl
@[simp] theorem State.setCal_lcdReady : (s.setCal c).lcdReady = s.lcdReady := rfl
@[simp] theorem State.setCal_tchReady : (s.setCal c).tchReady = s.tchReady := rfl
@[simp] theorem State.setCal_busy : (s.setCal c).busy = s.busy := rfl
@[simp] theorem State.setCal_fsm : (s.setCal c).fsm = s.fsm := rfl
@[simp] theorem State.setCal_pin : (s.setCal c).pin = s.pin := rfl
@[simp] theorem State.setCal_latch : (s.setCal c).latch = s.latch := rfl
@[simp] theorem State.setCal_work : (s.setCal c).work = s.work := rfl
@[simp] theorem State.setCal_cfg : (s.setCal c).cfg = s.cfg := rfl
@[simp] theorem State.setCal_calls : (s.setCal c).calls = s.calls := rfl
@[simp] theorem State.setCal_tdi : (s.setCal c).tdi = s.tdi := rfl
@[simp] theorem State.setCal_rdy : (s.setCal c).rdy = s.rdy := rfl
@[simp] theorem State.setCal_asked : (s.setCal c).asked = s.asked := rfl
@[simp] theorem State.setCal_result : (s.setCal c).result = s.result := rfl
@[simp] theorem State.setCal_traceF : (s.setCal c).traceF = s.traceF := rfl
@[simp] theorem State.setCal_traceP : (s.setCal c).traceP = s.traceP := rfl
@[simp] theorem State.setCal_delivered : (s.setCal c).delivered = s.delivered := rfl

end

/-! ### `setOri` -/

section
variable (s : State) (f : Ori)

@[simp] theorem State.setOri_cal : (s.setOri f).cal = s.cal := rfl
@[simp] theorem State.setOri_ori : (s.setOri f).ori = f := rfl
@[simp] theorem State.setOri_tdim : (s.setOri f).tdim = s.tdim := rfl
@[simp] theorem State.setOri_prevPressed : (s.setOri f).prevPressed = s.prevPressed := rfl
@[simp] theorem State.setOri_lcdReady : (s.setOri f).lcdReady = s.lcdReady := rfl
@[simp] theorem State.setOri_tchReady : (s.setOri f).tchReady = s.tchReady := rfl
@[simp] theorem State.setOri_busy : (s.setOri f).busy = s.busy := rfl
@[simp] theorem State.setOri_fsm : (s.setOri f).fsm = s.fsm := rfl
@[simp] theorem State.setOri_pin : (s.setOri f).pin = s.pin := rfl
@[simp] theorem State.setOri_latch : (s.setOri f).latch = s.latch := rfl
@[simp] theorem State.setOri_work : (s.setOri f).work = s.work := rfl
@[simp] theorem State.setOri_cfg : (s.setOri f).cfg = s.cfg := rfl
@[simp] theorem State.setOri_calls : (s.setOri f).calls = s.calls := rfl
@[simp] theorem State.setOri_tdi : (s.setOri f).tdi = s.tdi := rfl
@[simp] theorem State.setOri_rdy : (s.setOri f).rdy = s.rdy := rfl
@[simp] theorem State.setOri_asked : (s.setOri f).asked = s.asked := rfl
@[simp] theorem State.setOri_result : (s.setOri f).result = s.result := rfl
@[simp] theorem State.setOri_traceF : (s.setOri f).traceF = s.traceF := rfl
@[simp] theorem State.setOri_traceP : (s.setOri f).traceP = s.traceP := rfl
@[simp] theorem State.setOri_delivered : (s.setOri f).delivered = s.delivered := rfl

end

/-! ### `setTdim` -/

section
variable (s : State) (d : Dim)

@[simp] theorem State.setTdim_cal : (s.setTdim d).cal = s.cal := rfl
@[simp] theorem State.setTdim_ori : (s.setTdim d).ori = s.ori := rfl
@[simp] theorem State.setTdim_tdim : (s.setTdim d).tdim = d := rfl
@[simp] theorem State.setTdim_prevPressed : (s.setTdim d).prevPressed = s.prevPressed := rfl
@[simp] theorem State.setTdim_lcdReady : (s.setTdim d).lcdReady = s.lcdReady := rfl
@[simp] theorem State.setTdim_tchReady : (s.setTdim d).tchReady = s.tchReady := rfl
@[simp] theorem State.setTdim_busy : (s.setTdim d).busy = s.busy := rfl
@[simp] theorem State.setTdim_fsm : (s.setTdim d).fsm = s.fsm := rfl
@[simp] theorem State.setTdim_pin : (s.setTdim d).pin = s.pin := rfl
@[simp] theorem State.setTdim_latch : (s.setTdim d).latch = s.latch := rfl
@[simp] theorem State.setTdim_work : (s.setTdim d).work = s.work := rfl
@[simp] theorem State.setTdim_cfg : (s.setTdim d).cfg = s.cfg := rfl
@[simp] theorem State.setTdim_calls : (s.setTdim d).calls = s.calls := rfl
@[simp] theorem State.setTdim_tdi : (s.setTdim d).tdi = s.tdi := rfl
@[simp] theorem State.setTdim_rdy : (s.setTdim d).rdy = s.rdy := rfl
@[simp] theorem State.setTdim_asked : (s.setTdim d).asked = s.asked := rfl
@[simp] theorem State.setTdim_result : (s.setTdim d).result = s.result := rfl
@[simp] theorem State.setTdim_traceF : (s.setTdim d).traceF = s.traceF := rfl
@[simp] theorem State.setTdim_traceP : (s.setTdim d).traceP = s.traceP := rfl
@[simp] theorem State.setTdim_delivered : (s.setTdim d).delivered = s.delivered := rfl

end

/-! ### `setLatch` -/

section
variable (s : State) (v : Half)

@[simp] theorem State.setLatch_cal : (s.setLatch v).cal = s.cal := rfl
@[simp] theorem State.setLatch_ori : (s.setLatch v).ori = s.ori := rfl
@[simp] theorem State.setLatch_tdim : (s.setLatch v).tdim = s.tdim := rfl
@[simp] theorem State.setLatch_prevPressed : (s.setLatch v).prevPressed = s.prevPressed := rfl
@[simp] theorem State.setLatch_lcdReady : (s.setLatch v).lcdReady = s.lcdReady := rfl
@[simp] theorem State.setLatch_tchReady : (s.setLatch v).tchReady = s.tchReady := rfl
@[simp] theorem State.setLatch_busy : (s.setLatch v).busy = s.busy := rfl
@[simp] theorem State.setLatch_fsm : (s.setLatch v).fsm = s.fsm := rfl
@[simp] theorem State.setLatch_pin : (s.setLatch v).pin = s.pin := rfl
@[simp] theorem State.setLatch_latch : (s.setLatch v).latch = some v := rfl
@[simp] theorem State.setLatch_work : (s.setLatch v).work = s.work := rfl
@[simp] theorem State.setLatch_cfg : (s.setLatch v).cfg = s.cfg := rfl
@[simp] theorem State.setLatch_calls : (s.setLatch v).calls = s.calls := rfl
@[simp] theorem State.setLatch_tdi : (s.setLatch v).tdi = s.tdi := rfl
@[simp] theorem State.setLatch_rdy : (s.setLatch v).rdy = s.rdy := rfl
@[simp] theorem State.setLatch_asked : (s.setLatch v).asked = s.asked := rfl
@[simp] theorem State.setLatch_result : (s.setLatch v).result = s.result := rfl
@[simp] theorem State.setLatch_traceF : (s.setLatch v).traceF = s.traceF := rfl
@[simp] theorem State.setLatch_traceP : (s.setLatch v).traceP = s.traceP := rfl
@[simp] theorem State.setLatch_delivered : (s.setLatch v).delivered = s.delivered := rfl

end

/-! ### `deliver` -/

section
variable (s : State) (ws : List BusWord)

@[simp] theorem State.deliver_cal : (s.deliver ws).cal = s.cal := rfl
@[simp] theorem State.deliver_ori : (s.deliver ws).ori = s.ori := rfl
@[simp] theorem State.deliver_tdim : (s.deliver ws).tdim = s.tdim := rfl
@[simp] theorem State.deliver_prevPressed : (s.deliver ws).prevPressed = s.prevPressed := rfl
@[simp] theorem State.deliver_lcdReady : (s.deliver ws).lcdReady = s.lcdReady := rfl
@[simp] theorem State.deliver_tchReady : (s.deliver ws).tchReady = s.tchReady := rfl
@[simp] theorem State.deliver_busy : (s.deliver ws).busy = s.busy := rfl
@[simp] theorem State.deliver_fsm : (s.deliver ws).fsm = s.fsm := rfl
@[simp] theorem State.deliver_pin : (s.deliver ws).pin = s.pin := rfl
@[simp] theorem State.deliver_latch : (s.deliver ws).latch = s.latch := rfl
@[simp] theorem State.deliver_work : (s.deliver ws).work = s.work := rfl
@[simp] theorem State.deliver_cfg : (s.deliver ws).cfg = s.cfg := rfl
@[simp] theorem State.deliver_calls : (s.deliver ws).calls = s.calls := rfl
@[simp] theorem State.deliver_tdi : (s.deliver ws).tdi = s.tdi := rfl
@[simp] theorem State.deliver_rdy : (s.deliver ws).rdy = s.rdy := rfl
@[simp] theorem State.deliver_asked : (s.deliver ws).asked = s.asked := rfl
@[simp] theorem State.deliver_result : (s.deliver ws).result = s.result := rfl
@[simp] theorem State.deliver_traceF : (s.deliver ws).traceF = s.traceF := rfl
@[simp] theorem State.deliver_traceP : (s.deliver ws).traceP = s.traceP := rfl
@[simp] theorem State.deliver_delivered : (s.deliver ws).delivered = s.delivered ++ ws := rfl

end

/-! ### `setTdi` -/

section
variable (s : State) (bs : List Bool)

@[simp] theorem State.setTdi_cal : (s.setTdi bs).cal = s.cal := rfl
@[simp] theorem State.setTdi_ori : (s.setTdi bs).ori = s.ori := rfl
@[simp] theorem State.setTdi_tdim : (s.setTdi bs).tdim = s.tdim := rfl
@[simp] theorem State.setTdi_prevPressed : (s.setTdi bs).prevPressed = s.prevPressed := rfl
@[simp] theorem State.setTdi_lcdReady : (s.setTdi bs).lcdReady = s.lcdReady := rfl
@[simp] theorem State.setTdi_tchReady : (s.setTdi bs).tchReady = s.tchReady := rfl
@[simp] theorem State.setTdi_busy : (s.setTdi bs).busy = s.busy := rfl
@[simp] theorem State.setTdi_fsm : (s.setTdi bs).fsm = s.fsm := rfl
@[simp] theorem State.setTdi_pin : (s.setTdi bs).pin = s.pin := rfl
@[simp] theorem State.setTdi_latch : (s.setTdi bs).latch = s.latch := rfl
@[simp] theorem State.setTdi_work : (s.setTdi bs).work = s.work := rfl
@[simp] theorem State.setTdi_cfg : (s.setTdi bs).cfg = s.cfg := rfl
@[simp] theorem State.setTdi_calls : (s.setTdi bs).calls = s.calls := rfl
@[simp] theorem State.setTdi_tdi : (s.setTdi bs).tdi = bs := rfl
@[simp] theorem State.setTdi_rdy : (s.setTdi bs).rdy = s.rdy := rfl
@[simp] theorem State.setTdi_asked : (s.setTdi bs).asked = s.asked := rfl
@[simp] theorem State.setTdi_result : (s.setTdi bs).result = s.result := rfl
@[simp] theorem State.setTdi_traceF : (s.setTdi bs).traceF = s.traceF := rfl
@[simp] theorem State.setTdi_traceP : (s.setTdi bs).traceP = s.traceP := rfl
@[simp] theorem State.setTdi_delivered : (s.setTdi bs).delivered = s.delivered := rfl

end

/-! ### `setRdy` -/

section
variable (s : State) (bs : List Bool)

@[simp] theorem State.setRdy_cal : (s.setRdy bs).cal = s.cal := rfl
@[simp] theorem State.setRdy_ori : (s.setRdy bs).ori = s.ori := rfl
@[simp] theorem State.setRdy_tdim : (s.setRdy bs).tdim = s.tdim := rfl
@[simp] theorem State.setRdy_prevPressed : (s.setRdy bs).prevPressed = s.prevPressed := rfl
@[simp] theorem State.setRdy_lcdReady : (s.setRdy bs).lcdReady = s.lcdReady := rfl
@[simp] theorem State.setRdy_tchReady : (s.setRdy bs).tchReady = s.tchReady := rfl
@[simp] theorem State.setRdy_busy : (s.setRdy bs).busy = s.busy := rfl
@[simp] theorem State.setRdy_fsm : (s.setRdy bs).fsm = s.fsm := rfl
@[simp] theorem State.setRdy_pin : (s.setRdy bs).pin = s.pin := rfl
@[simp] theorem State.setRdy_latch : (s.setRdy bs).latch = s.latch := rfl
@[simp] theorem State.setRdy_work : (s.setRdy bs).work = s.work := rfl
@[simp] theorem State.setRdy_cfg : (s.setRdy bs).cfg = s.cfg := rfl
@[simp] theorem State.setRdy_calls : (s.setRdy bs).calls = s.calls := rfl
@[simp] theorem State.setRdy_tdi : (s.setRdy bs).tdi = s.tdi := rfl
@[simp] theorem State.setRdy_rdy : (s.setRdy bs).rdy = bs := rfl
@[simp] theorem State.setRdy_asked : (s.setRdy bs).asked = s.asked := rfl
@[simp] theorem State.setRdy_result : (s.setRdy bs).result = s.result := rfl
@[simp] theorem State.setRdy_traceF : (s.setRdy bs).traceF = s.traceF := rfl
@[simp] theorem State.setRdy_traceP : (s.setRdy bs).traceP = s.traceP := rfl
@[simp] theorem State.setRdy_delivered : (s.setRdy bs).delivered = s.delivered := rfl

end

/-! ### `countAsk` -/

section
variable (s : State) 

@[simp] theorem State.countAsk_cal : (s.countAsk).cal = s.cal := rfl
@[simp] theorem State.countAsk_ori : (s.countAsk).ori = s.ori := rfl
@[simp] theorem State.countAsk_tdim : (s.countAsk).tdim = s.tdim := rfl
@[simp] theorem State.countAsk_prevPressed : (s.countAsk).prevPressed = s.prevPressed := rfl
@[simp] theorem State.countAsk_lcdReady : (s.countAsk).lcdReady = s.lcdReady := rfl
@[simp] theorem State.countAsk_tchReady : (s.countAsk).tchReady = s.tchReady := rfl
@[simp] theorem State.countAsk_busy : (s.countAsk).busy = s.busy := rfl
@[simp] theorem State.countAsk_fsm : (s.countAsk).fsm = s.fsm := rfl
@[simp] theorem State.countAsk_pin : (s.countAsk).pin = s.pin := rfl
@[simp] theorem State.countAsk_latch : (s.countAsk).latch = s.latch := rfl
@[simp] theorem State.countAsk_work : (s.countAsk).work = s.work := rfl
@[simp] theorem State.countAsk_cfg : (s.countAsk).cfg = s.cfg := rfl
@[simp] theorem State.countAsk_calls : (s.countAsk).calls = s.calls := rfl
@[simp] theorem State.countAsk_tdi : (s.countAsk).tdi = s.tdi := rfl
@[simp] theorem State.countAsk_rdy : (s.countAsk).rdy = s.rdy := rfl
@[simp] theorem State.countAsk_asked : (s.countAsk).asked = s.asked + 1 := rfl
@[simp] theorem State.countAsk_result : (s.countAsk).result = s.result := rfl
@[simp] theorem State.countAsk_traceF : (s.countAsk).traceF = s.traceF := rfl
@[simp] theorem State.countAsk_traceP : (s.countAsk).traceP = s.traceP := rfl
@[simp] theorem State.countAsk_delivered : (s.countAsk).delivered = s.delivered := rfl

end

/-! ### `setCalls` -/

section
variable (s : State) (cs : List Call)

@[simp] theorem State.setCalls_cal : (s.setCalls cs).cal = s.cal := rfl
@[simp] theorem State.setCalls_ori : (s.setCalls cs).ori = s.ori := rfl
@[simp] theorem State.setCalls_tdim : (s.setCalls cs).tdim = s.tdim := rfl
@[simp] theorem State.setCalls_prevPressed : (s.setCalls cs).prevPressed = s.prevPressed := rfl
@[simp] theorem State.setCalls_lcdReady : (s.setCalls cs).lcdReady = s.lcdReady := rfl
@[simp] theorem State.setCalls_tchReady : (s.setCalls cs).tchReady = s.tchReady := rfl
@[simp] theorem State.setCalls_busy : (s.setCalls cs).busy = s.busy := rfl
@[simp] theorem State.setCalls_fsm : (s.setCalls cs).fsm = s.fsm := rfl
@[simp] theorem State.setCalls_pin : (s.setCalls cs).pin = s.pin := rfl
@[simp] theorem State.setCalls_latch : (s.setCalls cs).latch = s.latch := rfl
@[simp] theorem State.setCalls_work : (s.setCalls cs).work = s.work := rfl
@[simp] theorem State.setCalls_cfg : (s.setCalls cs).cfg = s.cfg := rfl
@[simp] theorem State.setCalls_calls : (s.setCalls cs).calls = cs := rfl
@[simp] theorem State.setCalls_tdi : (s.setCalls cs).tdi = s.tdi := rfl
@[simp] theorem State.setCalls_rdy : (s.setCalls cs).rdy = s.rdy := rfl
@[simp] theorem State.setCalls_asked : (s.setCalls cs).asked = s.asked := rfl
@[simp] theorem State.setCalls_result : (s.setCalls cs).result = s.result := rfl
@[simp] theorem State.setCalls_traceF : (s.setCalls cs).traceF = s.traceF := rfl
@[simp] theorem State.setCalls_traceP : (s.setCalls cs).traceP = s.traceP := rfl
@[simp] theorem State.setCalls_delivered : (s.setCalls cs).delivered = s.delivered := rfl

end

/-! ### `finish` -/

section
variable (s : State) (r : Result)

@[simp] theorem State.finish_cal : (s.finish r).cal = s.cal := rfl
@[simp] theorem State.finish_ori : (s.finish r).ori = s.ori := rfl
@[simp] theorem State.finish_tdim : (s.finish r).tdim = s.tdim := rfl
@[simp] theorem State.finish_prevPressed : (s.finish r).prevPressed = s.prevPressed := rfl
@[simp] theorem State.finish_lcdReady : (s.finish r).lcdReady = s.lcdReady := rfl
@[simp] theorem State.finish_tchReady : (s.finish r).tchReady = s.tchReady := rfl
@[simp] theorem State.finish_busy : (s.finish r).busy = false := rfl
@[simp] theorem State.finish_fsm : (s.finish r).fsm = .idle := rfl
@[simp] theorem State.finish_pin : (s.finish r).pin = s.pin := rfl
@[simp] theorem State.finish_latch : (s.finish r).latch = s.latch := rfl
@[simp] theorem State.finish_work : (s.finish r).work = .idle := rfl
@[simp] theorem State.finish_cfg : (s.finish r).cfg = s.cfg := rfl
@[simp] theorem State.finish_calls : (s.finish r).calls = s.calls := rfl
@[simp] theorem State.finish_tdi : (s.finish r).tdi = s.tdi := rfl
@[simp] theorem State.finish_rdy : (s.finish r).rdy = s.rdy := rfl
@[simp] theorem State.finish_asked : (s.finish r).asked = s.asked := rfl
@[simp] theorem State.finish_result : (s.finish r).result = r := rfl
@[simp] theorem State.finish_traceF : (s.finish r).traceF = s.traceF := rfl
@[simp] theorem State.finish_traceP : (s.finish r).traceP = s.traceP := rfl
@[simp] theorem State.finish_delivered : (s.finish r).delivered = s.delivered := rfl

end

/-! ### `setWork` -/

section
variable (s : State) (w : Work)

@[simp] theorem State.setWork_cal : (s.setWork w).cal = s.cal := rfl
@[simp] theorem State.setWork_ori : (s.setWork w).ori = s.ori := rfl
@[simp] theorem State.setWork_tdim : (s.setWork w).tdim = s.tdim := rfl
@[simp] theorem State.setWork_prevPressed : (s.setWork w).prevPressed = s.prevPressed := rfl
@[simp] theorem State.setWork_lcdReady : (s.setWork w).lcdReady = s.lcdReady := rfl
@[simp] theorem State.setWork_tchReady : (s.setWork w).tchReady = s.tchReady := rfl
@[simp] theorem State.setWork_busy : (s.setWork w).busy = s.busy := rfl
@[simp] theorem State.setWork_fsm : (s.setWork w).fsm = s.fsm := rfl
@[simp] theorem State.setWork_pin : (s.setWork w).pin = s.pin := rfl
@[simp] theorem State.setWork_latch : (s.setWork w).latch = s.latch := rfl
@[simp] theorem State.setWork_work : (s.setWork w).work = w := rfl
@[simp] theorem State.setWork_cfg : (s.setWork w).cfg = s.cfg := rfl
@[simp] theorem State.setWork_calls : (s.setWork w).calls = s.calls := rfl
@[simp] theorem State.setWork_tdi : (s.setWork w).tdi = s.tdi := rfl
@[simp] theorem State.setWork_rdy : (s.setWork w).rdy = s.rdy := rfl
@[simp] theorem State.setWork_asked : (s.setWork w).asked = s.asked := rfl
@[simp] theorem State.setWork_result : (s.setWork w).result = s.result := rfl
@[simp] theorem State.setWork_traceF : (s.setWork w).traceF = s.traceF := rfl
@[simp] theorem State.setWork_traceP : (s.setWork w).traceP = s.traceP := rfl
@[simp] theorem State.setWork_delivered : (s.setWork w).delivered = s.delivered := rfl

end

/-! ### `setFsm` -/

section
variable (s : State) (f : Fsm)

@[simp] theorem State.setFsm_cal : (s.setFsm f).cal = s.cal := rfl
@[simp] theorem State.setFsm_ori : (s.setFsm f).ori = s.ori := rfl
@[simp] theorem State.setFsm_tdim : (s.setFsm f).tdim = s.tdim := rfl
@[simp] theorem State.setFsm_prevPressed : (s.setFsm f).prevPressed = s.prevPressed := rfl
@[simp] theorem State.setFsm_lcdReady : (s.setFsm f).lcdReady = s.lcdReady := rfl
@[simp] theorem State.setFsm_tchReady : (s.setFsm f).tchReady = s.tchReady := rfl
@[simp] theorem State.setFsm_busy : (s.setFsm f).busy = s.busy := rfl
@[simp] theorem State.setFsm_fsm : (s.setFsm f).fsm = f := rfl
@[simp] theorem State.setFsm_pin : (s.setFsm f).pin = s.pin := rfl
@[simp] theorem State.setFsm_latch : (s.setFsm f).latch = s.latch := rfl
@[simp] theorem State.setFsm_work : (s.setFsm f).work = s.work := rfl
@[simp] theorem State.setFsm_cfg : (s.setFsm f).cfg = s.cfg := rfl
@[simp] theorem State.setFsm_calls : (s.setFsm f).calls = s.calls := rfl
@[simp] theorem State.setFsm_tdi : (s.setFsm f).tdi = s.tdi := rfl
@[simp] theorem State.setFsm_rdy : (s.setFsm f).rdy = s.rdy := rfl
@[simp] theorem State.setFsm_asked : (s.setFsm f).asked = s.asked := rfl
@[simp] theorem State.setFsm_result : (s.setFsm f).result = s.result := rfl
@[simp] theorem State.setFsm_traceF : (s.setFsm f).traceF = s.traceF := rfl
@[simp] theorem State.setFsm_traceP : (s.setFsm f).traceP = s.traceP := rfl
@[simp] theorem State.setFsm_delivered : (s.setFsm f).delivered = s.delivered := rfl

end

/-! ### `emitF` -/

section
variable (s : State) (e : EventF)

@[simp] theorem State.emitF_cal : (s.emitF e).cal = s.cal := rfl
@[simp] theorem State.emitF_ori : (s.emitF e).ori = s.ori := rfl
@[simp] theorem State.emitF_tdim : (s.emitF e).tdim = s.tdim := rfl
@[simp] theorem State.emitF_prevPressed : (s.emitF e).prevPressed = s.prevPressed := rfl
@[simp] theorem State.emitF_lcdReady : (s.emitF e).lcdReady = s.lcdReady := rfl
@[simp] theorem State.emitF_tchReady : (s.emitF e).tchReady = s.tchReady := rfl
@[simp] theorem State.emitF_busy : (s.emitF e).busy = s.busy := rfl
@[simp] theorem State.emitF_fsm : (s.emitF e).fsm = s.fsm := rfl
@[simp] theorem State.emitF_pin : (s.emitF e).pin = s.pin := rfl
@[simp] theorem State.emitF_latch : (s.emitF e).latch = s.latch := rfl
@[simp] theorem State.emitF_work : (s.emitF e).work = s.work := rfl
@[simp] theorem State.emitF_cfg : (s.emitF e).cfg = s.cfg := rfl
@[simp] theorem State.emitF_calls : (s.emitF e).calls = s.calls := rfl
@[simp] theorem State.emitF_tdi : (s.emitF e).tdi = s.tdi := rfl
@[simp] theorem State.emitF_rdy : (s.emitF e).rdy = s.rdy := rfl
@[simp] theorem State.emitF_asked : (s.emitF e).asked = s.asked := rfl
@[simp] theorem State.emitF_result : (s.emitF e).result = s.result := rfl
@[simp] theorem State.emitF_traceF : (s.emitF e).traceF = s.traceF ++ [e] := rfl
@[simp] theorem State.emitF_traceP : (s.emitF e).traceP = s.traceP := rfl
@[simp] theorem State.emitF_delivered : (s.emitF e).delivered = s.delivered := rfl

end

/-! ### `emitP` -/

section
variable (s : State) (es : List EventP)

@[simp] theorem State.emitP_cal : (s.emitP es).cal = s.cal := rfl
@[simp] theorem State.emitP_ori : (s.emitP es).ori = s.ori := rfl
@[simp] theorem State.emitP_tdim : (s.emitP es).tdim = s.tdim := rfl
@[simp] theorem State.emitP_prevPressed : (s.emitP es).prevPressed = s.prevPressed := rfl
@[simp] theorem State.emitP_lcdReady : (s.emitP es).lcdReady = s.lcdReady := rfl
@[simp] theorem State.emitP_tchReady : (s.emitP es).tchReady = s.tchReady := rfl
@[simp] theorem State.emitP_busy : (s.emitP es).busy = s.busy := rfl
@[simp] theorem State.emitP_fsm : (s.emitP es).fsm = s.fsm := rfl
@[simp] theorem State.emitP_pin : (s.emitP es).pin = es.foldl Pins.apply s.pin := rfl
@[simp] theorem State.emitP_latch : (s.emitP es).latch = s.latch := rfl
@[simp] theorem State.emitP_work : (s.emitP es).work = s.work := rfl
@[simp] theorem State.emitP_cfg : (s.emitP es).cfg = s.cfg := rfl
@[simp] theorem State.emitP_calls : (s.emitP es).calls = s.calls := rfl
@[simp] theorem State.emitP_tdi : (s.emitP es).tdi = s.tdi := rfl
@[simp] theorem State.emitP_rdy : (s.emitP es).rdy = s.rdy := rfl
@[simp] theorem State.emitP_asked : (s.emitP es).asked = s.asked := rfl
@[simp] theorem State.emitP_result : (s.emitP es).result = s.result := rfl
@[simp] theorem State.emitP_traceF : (s.emitP es).traceF = s.traceF := rfl
@[simp] theorem State.emitP_traceP : (s.emitP es).traceP = s.traceP ++ es := rfl
@[simp] theorem State.emitP_delivered : (s.emitP es).delivered = s.delivered := rfl

end

/-! ### `setLcd` -/

section
variable (s : State) (w : LcdWork)

@[simp] theorem State.setLcd_cal : (s.setLcd w).cal = s.cal := rfl
@[simp] theorem State.setLcd_ori : (s.setLcd w).ori = s.ori := rfl
@[simp] theorem State.setLcd_tdim : (s.setLcd w).tdim = s.tdim := rfl
@[simp] theorem State.setLcd_prevPressed : (s.setLcd w).prevPressed = s.prevPressed := rfl
@[simp] theorem State.setLcd_lcdReady : (s.setLcd w).lcdReady = s.lcdReady := rfl
@[simp] theorem State.setLcd_tchReady : (s.setLcd w).tchReady = s.tchReady := rfl
@[simp] theorem State.setLcd_busy : (s.setLcd w).busy = s.busy := rfl
@[simp] theorem State.setLcd_fsm : (s.setLcd w).fsm = s.fsm := rfl
@[simp] theorem State.setLcd_pin : (s.setLcd w).pin = s.pin := rfl
@[simp] theorem State.setLcd_latch : (s.setLcd w).latch = s.latch := rfl
@[simp] theorem State.setLcd_work : (s.setLcd w).work = { s.work with lcd := some w } := rfl
@[simp] theorem State.setLcd_cfg : (s.setLcd w).cfg = s.cfg := rfl
@[simp] theorem State.setLcd_calls : (s.setLcd w).calls = s.calls := rfl
@[simp] theorem State.setLcd_tdi : (s.setLcd w).tdi = s.tdi := rfl
@[simp] theorem State.setLcd_rdy : (s.setLcd w).rdy = s.rdy := rfl
@[simp] theorem State.setLcd_asked : (s.setLcd w).asked = s.asked := rfl
@[simp] theorem State.setLcd_result : (s.setLcd w).result = s.result := rfl
@[simp] theorem State.setLcd_traceF : (s.setLcd w).traceF = s.traceF := rfl
@[simp] theorem State.setLcd_traceP : (s.setLcd w).traceP = s.traceP := rfl
@[simp] theorem State.setLcd_delivered : (s.setLcd w).delivered = s.delivered := rfl

end

/-! ### `setXchg` -/

section
variable (s : State) (w : Option XchgWork)

@[simp] theorem State.setXchg_cal : (s.setXchg w).cal = s.cal := rfl
@[simp] theorem State.setXchg_ori : (s.setXchg w).ori = s.ori := rfl
@[simp] theorem State.setXchg_tdim : (s.setXchg w).tdim = s.tdim := rfl
@[simp] theorem State.setXchg_prevPressed : (s.setXchg w).prevPressed = s.prevPressed := rfl
@[simp] theorem State.setXchg_lcdReady : (s.setXchg w).lcdReady = s.lcdReady := rfl
@[simp] theorem State.setXchg_tchReady : (s.setXchg w).tchReady = s.tchReady := rfl
@[simp] theorem State.setXchg_busy : (s.setXchg w).busy = s.busy := rfl
@[simp] theorem State.setXchg_fsm : (s.setXchg w).fsm = s.fsm := rfl
@[simp] theorem State.setXchg_pin : (s.setXchg w).pin = s.pin := rfl
@[simp] theorem State.setXchg_latch : (s.setXchg w).latch = s.latch := rfl
@[simp] theorem State.setXchg_work : (s.setXchg w).work = { s.work with xchg := w } := rfl
@[simp] theorem State.setXchg_cfg : (s.setXchg w).cfg = s.cfg := rfl
@[simp] theorem State.setXchg_calls : (s.setXchg w).calls = s.calls := rfl
@[simp] theorem State.setXchg_tdi : (s.setXchg w).tdi = s.tdi := rfl
@[simp] theorem State.setXchg_rdy : (s.setXchg w).rdy = s.rdy := rfl
@[simp] theorem State.setXchg_asked : (s.setXchg w).asked = s.asked := rfl
@[simp] theorem State.setXchg_result : (s.setXchg w).result = s.result := rfl
@[simp] theorem State.setXchg_traceF : (s.setXchg w).traceF = s.traceF := rfl
@[simp] theorem State.setXchg_traceP : (s.setXchg w).traceP = s.traceP := rfl
@[simp] theorem State.setXchg_delivered : (s.setXchg w).delivered = s.delivered := rfl

end

/-! ### `setPoll` -/

section
variable (s : State) (w : PollWork)

@[simp] theorem State.setPoll_cal : (s.setPoll w).cal = s.cal := rfl
@[simp] theorem State.setPoll_ori : (s.setPoll w).ori = s.ori := rfl
@[simp] theorem State.setPoll_tdim : (s.setPoll w).tdim = s.tdim := rfl
@[simp] theorem State.setPoll_prevPressed : (s.setPoll w).prevPressed = s.prevPressed := rfl
@[simp] theorem State.setPoll_lcdReady : (s.setPoll w).lcdReady = s.lcdReady := rfl
@[simp] theorem State.setPoll_tchReady : (s.setPoll w).tchReady = s.tchReady := rfl
@[simp] theorem State.setPoll_busy : (s.setPoll w).busy = s.busy := rfl
@[simp] theorem State.setPoll_fsm : (s.setPoll w).fsm = s.fsm := rfl
@[simp] theorem State.setPoll_pin : (s.setPoll w).pin = s.pin := rfl
@[simp] theorem State.setPoll_latch : (s.setPoll w).latch = s.latch := rfl
@[simp] theorem State.setPoll_work : (s.setPoll w).work = { s.work with poll := some w } := rfl
@[simp] theorem State.setPoll_cfg : (s.setPoll w).cfg = s.cfg := rfl
@[simp] theorem State.setPoll_calls : (s.setPoll w).calls = s.calls := rfl
@[simp] theorem State.setPoll_tdi : (s.setPoll w).tdi = s.tdi := rfl
@[simp] theorem State.setPoll_rdy : (s.setPoll w).rdy = s.rdy := rfl
@[simp] theorem State.setPoll_asked : (s.setPoll w).asked = s.asked := rfl
@[simp] theorem State.setPoll_result : (s.setPoll w).result = s.result := rfl
@[simp] theorem State.setPoll_traceF : (s.setPoll w).traceF = s.traceF := rfl
@[simp] theorem State.setPoll_traceP : (s.setPoll w).traceP = s.traceP := rfl
@[simp] theorem State.setPoll_delivered : (s.setPoll w).delivered = s.delivered := rfl

end

/-! ### `setMap` -/

section
variable (s : State) (w : MapWork)

@[simp] theorem State.setMap_cal : (s.setMap w).cal = s.cal := rfl
@[simp] theorem State.setMap_ori : (s.setMap w).ori = s.ori := rfl
@[simp] theorem State.setMap_tdim : (s.setMap w).tdim = s.tdim := rfl
@[simp] theorem State.setMap_prevPressed : (s.setMap w).prevPressed = s.prevPressed := rfl
@[simp] theorem State.setMap_lcdReady : (s.setMap w).lcdReady = s.lcdReady := rfl
@[simp] theorem State.setMap_tchReady : (s.setMap w).tchReady = s.tchReady := rfl
@[simp] theorem State.setMap_busy : (s.setMap w).busy = s.busy := rfl
@[simp] theorem State.setMap_fsm : (s.setMap w).fsm = s.fsm := rfl
@[simp] theorem State.setMap_pin : (s.setMap w).pin = s.pin := rfl
@[simp] theorem State.setMap_latch : (s.setMap w).latch = s.latch := rfl
@[simp] theorem State.setMap_work : (s.setMap w).work = { s.work with map := some w } := rfl
@[simp] theorem State.setMap_cfg : (s.setMap w).cfg = s.cfg := rfl
@[simp] theorem State.setMap_calls : (s.setMap w).calls = s.calls := rfl
@[simp] theorem State.setMap_tdi : (s.setMap w).tdi = s.tdi := rfl
@[simp] theorem State.setMap_rdy : (s.setMap w).rdy = s.rdy := rfl
@[simp] theorem State.setMap_asked : (s.setMap w).asked = s.asked := rfl
@[simp] theorem State.setMap_result : (s.setMap w).result = s.result := rfl
@[simp] theorem State.setMap_traceF : (s.setMap w).traceF = s.traceF := rfl
@[simp] theorem State.setMap_traceP : (s.setMap w).traceP = s.traceP := rfl
@[simp] theorem State.setMap_delivered : (s.setMap w).delivered = s.delivered := rfl

end

/-! ### `setSpan` -/

section
variable (s : State) (w : SpanWork)

@[simp] theorem State.setSpan_cal : (s.setSpan w).cal = s.cal := rfl
@[simp] theorem State.setSpan_ori : (s.setSpan w).ori = s.ori := rfl
@[simp] theorem State.setSpan_tdim : (s.setSpan w).tdim = s.tdim := rfl
@[simp] theorem State.setSpan_prevPressed : (s.setSpan w).prevPressed = s.prevPressed := rfl
@[simp] theorem State.setSpan_lcdReady : (s.setSpan w).lcdReady = s.lcdReady := rfl
@[simp] theorem State.setSpan_tchReady : (s.setSpan w).tchReady = s.tchReady := rfl
@[simp] theorem State.setSpan_busy : (s.setSpan w).busy = s.busy := rfl
@[simp] theorem State.setSpan_fsm : (s.setSpan w).fsm = s.fsm := rfl
@[simp] theorem State.setSpan_pin : (s.setSpan w).pin = s.pin := rfl
@[simp] theorem State.setSpan_latch : (s.setSpan w).latch = s.latch := rfl
@[simp] theorem State.setSpan_work : (s.setSpan w).work = { s.work with span := some w } := rfl
@[simp] theorem State.setSpan_cfg : (s.setSpan w).cfg = s.cfg := rfl
@[simp] theorem State.setSpan_calls : (s.setSpan w).calls = s.calls := rfl
@[simp] theorem State.setSpan_tdi : (s.setSpan w).tdi = s.tdi := rfl
@[simp] theorem State.setSpan_rdy : (s.setSpan w).rdy = s.rdy := rfl
@[simp] theorem State.setSpan_asked : (s.setSpan w).asked = s.asked := rfl
@[simp] theorem State.setSpan_result : (s.setSpan w).result = s.result := rfl
@[simp] theorem State.setSpan_traceF : (s.setSpan w).traceF = s.traceF := rfl
@[simp] theorem State.setSpan_traceP : (s.setSpan w).traceP = s.traceP := rfl
@[simp] theorem State.setSpan_delivered : (s.setSpan w).delivered = s.delivered := rfl

end

/-! ### `setRing` -/

section
variable (s : State) (g : Option RingWork)

@[simp] theorem State.setRing_cal : (s.setRing g).cal = s.cal := rfl
@[simp] theorem State.setRing_ori : (s.setRing g).ori = s.ori := rfl
@[simp] theorem State.setRing_tdim : (s.setRing g).tdim = s.tdim := rfl
@[simp] theorem State.setRing_prevPressed : (s.setRing g).prevPressed = s.prevPressed := rfl
@[simp] theorem State.setRing_lcdReady : (s.setRing g).lcdReady = s.lcdReady := rfl
@[simp] theorem State.setRing_tchReady : (s.setRing g).tchReady = s.tchReady := rfl
@[simp] theorem State.setRing_busy : (s.setRing g).busy = s.busy := rfl
@[simp] theorem State.setRing_fsm : (s.setRing g).fsm = s.fsm := rfl
@[simp] theorem State.setRing_pin : (s.setRing g).pin = s.pin := rfl
@[simp] theorem State.setRing_latch : (s.setRing g).latch = s.latch := rfl
@[simp] theorem State.setRing_work : (s.setRing g).work = { s.work with ring := g } := rfl
@[simp] theorem State.setRing_cfg : (s.setRing g).cfg = s.cfg := rfl
@[simp] theorem State.setRing_calls : (s.setRing g).calls = s.calls := rfl
@[simp] theorem State.setRing_tdi : (s.setRing g).tdi = s.tdi := rfl
@[simp] theorem State.setRing_rdy : (s.setRing g).rdy = s.rdy := rfl
@[simp] theorem State.setRing_asked : (s.setRing g).asked = s.asked := rfl
@[simp] theorem State.setRing_result : (s.setRing g).result = s.result := rfl
@[simp] theorem State.setRing_traceF : (s.setRing g).traceF = s.traceF := rfl
@[simp] theorem State.setRing_traceP : (s.setRing g).traceP = s.traceP := rfl
@[simp] theorem State.setRing_delivered : (s.setRing g).delivered = s.delivered := rfl

end

/-! ### `setInitStep` -/

section
variable (s : State) (n : Nat)

@[simp] theorem State.setInitStep_cal : (s.setInitStep n).cal = s.cal := rfl
@[simp] theorem State.setInitStep_ori : (s.setInitStep n).ori = s.ori := rfl
@[simp] theorem State.setInitStep_tdim : (s.setInitStep n).tdim = s.tdim := rfl
@[simp] theorem State.setInitStep_prevPressed : (s.setInitStep n).prevPressed = s.prevPressed := rfl
@[simp] theorem State.setInitStep_lcdReady : (s.setInitStep n).lcdReady = s.lcdReady := rfl
@[simp] theorem State.setInitStep_tchReady : (s.setInitStep n).tchReady = s.tchReady := rfl
@[simp] theorem State.setInitStep_busy : (s.setInitStep n).busy = s.busy := rfl
@[simp] theorem State.setInitStep_fsm : (s.setInitStep n).fsm = s.fsm := rfl
@[simp] theorem State.setInitStep_pin : (s.setInitStep n).pin = s.pin := rfl
@[simp] theorem State.setInitStep_latch : (s.setInitStep n).latch = s.latch := rfl
@[simp] theorem State.setInitStep_work : (s.setInitStep n).work = { s.work with initStep := some n } := rfl
@[simp] theorem State.setInitStep_cfg : (s.setInitStep n).cfg = s.cfg := rfl
@[simp] theorem State.setInitStep_calls : (s.setInitStep n).calls = s.calls := rfl
@[simp] theorem State.setInitStep_tdi : (s.setInitStep n).tdi = s.tdi := rfl
@[simp] theorem State.setInitStep_rdy : (s.setInitStep n).rdy = s.rdy := rfl
@[simp] theorem State.setInitStep_asked : (s.setInitStep n).asked = s.asked := rfl
@[simp] theorem State.setInitStep_result : (s.setInitStep n).result = s.result := rfl
@[simp] theorem State.setInitStep_traceF : (s.setInitStep n).traceF = s.traceF := rfl
@[simp] theorem State.setInitStep_traceP : (s.setInitStep n).traceP = s.traceP := rfl
@[simp] theorem State.setInitStep_delivered : (s.setInitStep n).delivered = s.delivered := rfl

end

/-! ### `setPollStage` -/

section
variable (s : State) (p : PollStage)

@[simp] theorem State.setPollStage_cal : (s.setPollStage p).cal = s.cal := rfl
@[simp] theorem State.setPollStage_ori : (s.setPollStage p).ori = s.ori := rfl
@[simp] theorem State.setPollStage_tdim : (s.setPollStage p).tdim = s.tdim := rfl
@[simp] theorem State.setPollStage_prevPressed : (s.setPollStage p).prevPressed = s.prevPressed := rfl
@[simp] theorem State.setPollStage_lcdReady : (s.setPollStage p).lcdReady = s.lcdReady := rfl
@[simp] theorem State.setPollStage_tchReady : (s.setPollStage p).tchReady = s.tchReady := rfl
@[simp] theorem State.setPollStage_busy : (s.setPollStage p).busy = s.busy := rfl
@[simp] theorem State.setPollStage_fsm : (s.setPollStage p).fsm = s.fsm := rfl
@[simp] theorem State.setPollStage_pin : (s.setPollStage p).pin = s.pin := rfl
@[simp] theorem State.setPollStage_latch : (s.setPollStage p).latch = s.latch := rfl
@[simp] theorem State.setPollStage_work : (s.setPollStage p).work = { s.work with pollStage := some p } := rfl
@[simp] theorem State.setPollStage_cfg : (s.setPollStage p).cfg = s.cfg := rfl
@[simp] theorem State.setPollStage_calls : (s.setPollStage p).calls = s.calls := rfl
@[simp] theorem State.setPollStage_tdi : (s.setPollStage p).tdi = s.tdi := rfl
@[simp] theorem State.setPollStage_rdy : (s.setPollStage p).rdy = s.rdy := rfl
@[simp] theorem State.setPollStage_asked : (s.setPollStage p).asked = s.asked := rfl
@[simp] theorem State.setPollStage_result : (s.setPollStage p).result = s.result := rfl
@[simp] theorem State.setPollStage_traceF : (s.setPollStage p).traceF = s.traceF := rfl
@[simp] theorem State.setPollStage_traceP : (s.setPollStage p).traceP = s.traceP := rfl
@[simp] theorem State.setPollStage_delivered : (s.setPollStage p).delivered = s.delivered := rfl

end

/-! ### The working registers pass through everything else -/

section
variable (s : State) (v w : Work)

@[simp] theorem State.setWork_setWork : (s.setWork v).setWork w = s.setWork w := rfl
@[simp] theorem State.setWork_self : s.setWork s.work = s := rfl
@[simp] theorem State.finish_setWork (r : Result) : (s.setWork w).finish r = s.finish r := rfl
@[simp] theorem State.finish_setFsm (f : Fsm) (r : Result) : (s.setFsm f).finish r = s.finish r := rfl
theorem State.emitF_setWork (e : EventF) : (s.setWork w).emitF e = (s.emitF e).setWork w := rfl
theorem State.emitP_setWork (es : List EventP) : (s.setWork w).emitP es = (s.emitP es).setWork w := rfl
theorem State.setFsm_setWork (f : Fsm) : (s.setWork w).setFsm f = (s.setFsm f).setWork w := rfl

end

/-! ### States are equal when their fields are -/

theorem State.ext_fields {s t : State} (h1 : s.cal = t.cal) (h2 : s.ori = t.ori) (h3 : s.tdim = t.tdim)
    (h4 : s.prevPressed = t.prevPressed) (h5 : s.lcdReady = t.lcdReady) (h6 : s.tchReady = t.tchReady)
    (h7 : s.busy = t.busy) (h8 : s.fsm = t.fsm) (h9 : s.pin = t.pin) (h10 : s.latch = t.latch) (h11 : s.work = t.work)
    (h12 : s.cfg = t.cfg) (h13 : s.calls = t.calls) (h14 : s.tdi = t.tdi) (h15 : s.rdy = t.rdy) (h16 : s.asked = t.asked)
    (h17 : s.result = t.result) (h18 : s.traceF = t.traceF) (h19 : s.traceP = t.traceP)
    (h20 : s.delivered = t.delivered) : s = t := by
  cases s; cases t; simp_all

end Sys2Proof.Machine
end

