-- ==== Sys2Proof/Laws/Lcd.lean ====
section
/-!
SUPPORT. What an LCD event, a list of them, and the two LCD operations do: one equation a field, which later proofs cite
instead of unfolding (40_bus_timing.md R136, 41_lcd_controller.md R153, R160).
-/

namespace Sys2Proof.Machine

/-! ### One event -/

/-- The latch after an LCD event (R136, last column). -/
def latchAfter (l : Option Half) : LcdEvent → Option Half
  | .lcdCmd c => some (c.setWidth 16)
  | .lcdData d => some (d.setWidth 16)
  | .lcdPix p => some p
  | .lcdWrite _ v => some v
  | .pinSetup | .lcdReset | .lcdSel | .lcdDesel | .lcdRpt | .delayMs _ | .flushDone => l

@[simp] theorem lcdEvent_cal (s : State) (e : LcdEvent) : (lcdEvent s e).cal = s.cal := by
  cases e <;> simp [lcdEvent, lcdDrive, writeLatched, latchValue, pulse]
@[simp] theorem lcdEvent_ori (s : State) (e : LcdEvent) : (lcdEvent s e).ori = s.ori := by
  cases e <;> simp [lcdEvent, lcdDrive, writeLatched, latchValue, pulse]
@[simp] theorem lcdEvent_tdim (s : State) (e : LcdEvent) : (lcdEvent s e).tdim = s.tdim := by
  cases e <;> simp [lcdEvent, lcdDrive, writeLatched, latchValue, pulse]
@[simp] theorem lcdEvent_prevPressed (s : State) (e : LcdEvent) : (lcdEvent s e).prevPressed = s.prevPressed := by
  cases e <;> simp [lcdEvent, lcdDrive, writeLatched, latchValue, pulse]
@[simp] theorem lcdEvent_lcdReady (s : State) (e : LcdEvent) : (lcdEvent s e).lcdReady = s.lcdReady := by
  cases e <;> simp [lcdEvent, lcdDrive, writeLatched, latchValue, pulse]
@[simp] theorem lcdEvent_tchReady (s : State) (e : LcdEvent) : (lcdEvent s e).tchReady = s.tchReady := by
  cases e <;> simp [lcdEvent, lcdDrive, writeLatched, latchValue, pulse]
@[simp] theorem lcdEvent_busy (s : State) (e : LcdEvent) : (lcdEvent s e).busy = s.busy := by
  cases e <;> simp [lcdEvent, lcdDrive, writeLatched, latchValue, pulse]
@[simp] theorem lcdEvent_fsm (s : State) (e : LcdEvent) : (lcdEvent s e).fsm = s.fsm := by
  cases e <;> simp [lcdEvent, lcdDrive, writeLatched, latchValue, pulse]
@[simp] theorem lcdEvent_work (s : State) (e : LcdEvent) : (lcdEvent s e).work = s.work := by
  cases e <;> simp [lcdEvent, lcdDrive, writeLatched, latchValue, pulse]
@[simp] theorem lcdEvent_cfg (s : State) (e : LcdEvent) : (lcdEvent s e).cfg = s.cfg := by
  cases e <;> simp [lcdEvent, lcdDrive, writeLatched, latchValue, pulse]
@[simp] theorem lcdEvent_calls (s : State) (e : LcdEvent) : (lcdEvent s e).calls = s.calls := by
  cases e <;> simp [lcdEvent, lcdDrive, writeLatched, latchValue, pulse]
@[simp] theorem lcdEvent_tdi (s : State) (e : LcdEvent) : (lcdEvent s e).tdi = s.tdi := by
  cases e <;> simp [lcdEvent, lcdDrive, writeLatched, latchValue, pulse]
@[simp] theorem lcdEvent_rdy (s : State) (e : LcdEvent) : (lcdEvent s e).rdy = s.rdy := by
  cases e <;> simp [lcdEvent, lcdDrive, writeLatched, latchValue, pulse]
@[simp] theorem lcdEvent_asked (s : State) (e : LcdEvent) : (lcdEvent s e).asked = s.asked := by
  cases e <;> simp [lcdEvent, lcdDrive, writeLatched, latchValue, pulse]
@[simp] theorem lcdEvent_result (s : State) (e : LcdEvent) : (lcdEvent s e).result = s.result := by
  cases e <;> simp [lcdEvent, lcdDrive, writeLatched, latchValue, pulse]

@[simp] theorem lcdEvent_pin (s : State) (e : LcdEvent) : (lcdEvent s e).pin = e.levelP.foldl Pins.apply s.pin := by
  cases e <;>
    simp [lcdEvent, lcdDrive, writeLatched, latchValue, pulse, LcdEvent.levelP, levelWL, levelPS, pulseEvents, latchEvents]

@[simp] theorem lcdEvent_latch (s : State) (e : LcdEvent) : (lcdEvent s e).latch = latchAfter s.latch e := by
  cases e <;> simp [lcdEvent, lcdDrive, writeLatched, latchValue, pulse, latchAfter]

@[simp] theorem lcdEvent_traceF (s : State) (e : LcdEvent) : (lcdEvent s e).traceF = s.traceF ++ [.lcd e] := by
  cases e <;> rfl

@[simp] theorem lcdEvent_traceP (s : State) (e : LcdEvent) : (lcdEvent s e).traceP = s.traceP ++ e.levelP := by
  cases e <;>
    simp [lcdEvent, lcdDrive, writeLatched, latchValue, pulse, LcdEvent.levelP, levelWL, levelPS, pulseEvents, latchEvents]

theorem lcdEvent_setWork (s : State) (w : Work) (e : LcdEvent) : lcdEvent (s.setWork w) e = (lcdEvent s e).setWork w := by
  apply State.ext_fields <;> simp
  cases e <;> simp [lcdEvent, lcdDrive, writeLatched, latchValue, pulse, strobeDelivers]

/-! ### A list of events -/

@[simp] theorem lcdEvents_nil (s : State) : lcdEvents [] s = s := rfl

theorem lcdEvents_cons (e : LcdEvent) (es : List LcdEvent) (s : State) :
    lcdEvents (e :: es) s = lcdEvents es (lcdEvent s e) := rfl

theorem lcdEvents_append (es fs : List LcdEvent) (s : State) :
    lcdEvents (es ++ fs) s = lcdEvents fs (lcdEvents es s) := by
  simp [lcdEvents, List.foldl_append]

theorem lcdEvents_one (e : LcdEvent) (s : State) : lcdEvent s e = lcdEvents [e] s := rfl

theorem lcdEvents_setWork (es : List LcdEvent) (s : State) (w : Work) :
    lcdEvents es (s.setWork w) = (lcdEvents es s).setWork w := by
  induction es generalizing s with
  | nil => rfl
  | cons e es ih => rw [lcdEvents_cons, lcdEvents_cons, lcdEvent_setWork, ih]

@[simp] theorem lcdEvents_cal (es : List LcdEvent) (s : State) : (lcdEvents es s).cal = s.cal := by
  induction es generalizing s with
  | nil => rfl
  | cons e es ih => rw [lcdEvents_cons, ih, lcdEvent_cal]

@[simp] theorem lcdEvents_ori (es : List LcdEvent) (s : State) : (lcdEvents es s).ori = s.ori := by
  induction es generalizing s with
  | nil => rfl
  | cons e es ih => rw [lcdEvents_cons, ih, lcdEvent_ori]

@[simp] theorem lcdEvents_tdim (es : List LcdEvent) (s : State) : (lcdEvents es s).tdim = s.tdim := by
  induction es generalizing s with
  | nil => rfl
  | cons e es ih => rw [lcdEvents_cons, ih, lcdEvent_tdim]

@[simp] theorem lcdEvents_prevPressed (es : List LcdEvent) (s : State) : (lcdEvents es s).prevPressed = s.prevPressed := by
  induction es generalizing s with
  | nil => rfl
  | cons e es ih => rw [lcdEvents_cons, ih, lcdEvent_prevPressed]

@[simp] theorem lcdEvents_lcdReady (es : List LcdEvent) (s : State) : (lcdEvents es s).lcdReady = s.lcdReady := by
  induction es generalizing s with
  | nil => rfl
  | cons e es ih => rw [lcdEvents_cons, ih, lcdEvent_lcdReady]

@[simp] theorem lcdEvents_tchReady (es : List LcdEvent) (s : State) : (lcdEvents es s).tchReady = s.tchReady := by
  induction es generalizing s with
  | nil => rfl
  | cons e es ih => rw [lcdEvents_cons, ih, lcdEvent_tchReady]

@[simp] theorem lcdEvents_busy (es : List LcdEvent) (s : State) : (lcdEvents es s).busy = s.busy := by
  induction es generalizing s with
  | nil => rfl
  | cons e es ih => rw [lcdEvents_cons, ih, lcdEvent_busy]

@[simp] theorem lcdEvents_fsm (es : List LcdEvent) (s : State) : (lcdEvents es s).fsm = s.fsm := by
  induction es generalizing s with
  | nil => rfl
  | cons e es ih => rw [lcdEvents_cons, ih, lcdEvent_fsm]

@[simp] theorem lcdEvents_work (es : List LcdEvent) (s : State) : (lcdEvents es s).work = s.work := by
  induction es generalizing s with
  | nil => rfl
  | cons e es ih => rw [lcdEvents_cons, ih, lcdEvent_work]

@[simp] theorem lcdEvents_cfg (es : List LcdEvent) (s : State) : (lcdEvents es s).cfg = s.cfg := by
  induction es generalizing s with
  | nil => rfl
  | cons e es ih => rw [lcdEvents_cons, ih, lcdEvent_cfg]

@[simp] theorem lcdEvents_calls (es : List LcdEvent) (s : State) : (lcdEvents es s).calls = s.calls := by
  induction es generalizing s with
  | nil => rfl
  | cons e es ih => rw [lcdEvents_cons, ih, lcdEvent_calls]

@[simp] theorem lcdEvents_tdi (es : List LcdEvent) (s : State) : (lcdEvents es s).tdi = s.tdi := by
  induction es generalizing s with
  | nil => rfl
  | cons e es ih => rw [lcdEvents_cons, ih, lcdEvent_tdi]

@[simp] theorem lcdEvents_rdy (es : List LcdEvent) (s : State) : (lcdEvents es s).rdy = s.rdy := by
  induction es generalizing s with
  | nil => rfl
  | cons e es ih => rw [lcdEvents_cons, ih, lcdEvent_rdy]

@[simp] theorem lcdEvents_asked (es : List LcdEvent) (s : State) : (lcdEvents es s).asked = s.asked := by
  induction es generalizing s with
  | nil => rfl
  | cons e es ih => rw [lcdEvents_cons, ih, lcdEvent_asked]

@[simp] theorem lcdEvents_result (es : List LcdEvent) (s : State) : (lcdEvents es s).result = s.result := by
  induction es generalizing s with
  | nil => rfl
  | cons e es ih => rw [lcdEvents_cons, ih, lcdEvent_result]

@[simp] theorem lcdEvents_pin (es : List LcdEvent) (s : State) :
    (lcdEvents es s).pin = (es.flatMap LcdEvent.levelP).foldl Pins.apply s.pin := by
  induction es generalizing s with
  | nil => rfl
  | cons e es ih => rw [lcdEvents_cons, ih, lcdEvent_pin, List.flatMap_cons, List.foldl_append]

@[simp] theorem lcdEvents_latch (es : List LcdEvent) (s : State) : (lcdEvents es s).latch = es.foldl latchAfter s.latch := by
  induction es generalizing s with
  | nil => rfl
  | cons e es ih => rw [lcdEvents_cons, ih, lcdEvent_latch, List.foldl_cons]

@[simp] theorem lcdEvents_traceF (es : List LcdEvent) (s : State) :
    (lcdEvents es s).traceF = s.traceF ++ es.map EventF.lcd := by
  induction es generalizing s with
  | nil => simp
  | cons e es ih => rw [lcdEvents_cons, ih, lcdEvent_traceF]; simp

@[simp] theorem lcdEvents_traceP (es : List LcdEvent) (s : State) :
    (lcdEvents es s).traceP = s.traceP ++ es.flatMap LcdEvent.levelP := by
  induction es generalizing s with
  | nil => simp
  | cons e es ih => rw [lcdEvents_cons, ih, lcdEvent_traceP]; simp

/-! ### What is delivered (R42) -/

/-- Bus writes of R100: the events a pixel stream and its window are made of, and those of a direct write. -/
def isBusWrite : LcdEvent → Bool
  | .lcdCmd _ | .lcdData _ | .lcdPix _ | .lcdRpt | .lcdWrite _ _ => true
  | .pinSetup | .lcdReset | .lcdSel | .lcdDesel | .delayMs _ | .flushDone => false

/-- The words one bus write delivers at `L_DC` = 1, the latch holding `l` before it (R42, R103). -/
def eventWords (l : Option Half) : LcdEvent → List BusWord
  | .lcdCmd c => [{ dc := false, value := c.setWidth 16, kind := .latched }]
  | .lcdData d => [{ dc := true, value := d.setWidth 16, kind := .latched }]
  | .lcdPix v | .lcdWrite _ v => [{ dc := true, value := v, kind := .latched }]
  | .lcdRpt => match l with
    | some v => [{ dc := true, value := v, kind := .repeated }]
    | none => []
  | .pinSetup | .lcdReset | .lcdSel | .lcdDesel | .delayMs _ | .flushDone => []

/-- The words a list of bus writes delivers. -/
def streamWords : Option Half → List LcdEvent → List BusWord
  | _, [] => []
  | l, e :: es => eventWords l e ++ streamWords (latchAfter l e) es

theorem lcdEvent_delivered (s : State) (e : LcdEvent) (hb : isBusWrite e = true) (hcs : s.pin.lCs = some true)
    (hdc : s.pin.lDc = some true) : (lcdEvent s e).delivered = s.delivered ++ eventWords s.latch e := by
  cases e <;> simp [isBusWrite] at hb <;>
    simp [lcdEvent, lcdDrive, writeLatched, latchValue, pulse, strobeDelivers, eventWords, pulseEvents, latchEvents,
      Pins.apply, Pins.set, hcs, hdc]
  cases s.latch <;> simp

theorem lcdEvent_quiet (s : State) (e : LcdEvent) (hb : isBusWrite e = false) : (lcdEvent s e).delivered = s.delivered := by
  cases e <;> simp [isBusWrite] at hb <;> simp [lcdEvent, lcdDrive]

theorem busWrite_lines (p : Pins) (e : LcdEvent) (hb : isBusWrite e = true) :
    (e.levelP.foldl Pins.apply p).lCs = p.lCs ∧ (p.lDc = some true → (e.levelP.foldl Pins.apply p).lDc = some true) := by
  cases e <;> simp [isBusWrite] at hb <;> simp [LcdEvent.levelP, levelWL, levelPS, Pins.apply, Pins.set]

/-- With the controller selected and the data/command line at rest, bus writes deliver their words in order, and leave
both lines as they were (R42, R136). -/
theorem lcdEvents_delivered (es : List LcdEvent) (s : State) (hb : es.all isBusWrite = true)
    (hcs : s.pin.lCs = some true) (hdc : s.pin.lDc = some true) :
    (lcdEvents es s).delivered = s.delivered ++ streamWords s.latch es := by
  induction es generalizing s with
  | nil => simp [streamWords]
  | cons e es ih =>
    rw [List.all_cons, Bool.and_eq_true] at hb
    obtain ⟨h1, h2⟩ := busWrite_lines s.pin e hb.1
    rw [lcdEvents_cons, ih (lcdEvent s e) hb.2 (by rw [lcdEvent_pin, h1, hcs]) (by rw [lcdEvent_pin, h2 hdc]),
      lcdEvent_delivered s e hb.1 hcs hdc, lcdEvent_latch, streamWords, List.append_assoc]

/-! ### The touch lines are not an LCD event's business (R150) -/

theorem Pins.apply_touch (p : Pins) (e : LcdEvent) :
    (e.levelP.foldl Pins.apply p).tCs = p.tCs ∧ (e.levelP.foldl Pins.apply p).tClk = p.tClk ∧
      (e.levelP.foldl Pins.apply p).tDo = p.tDo := by
  cases e <;> simp [LcdEvent.levelP, levelWL, levelPS, Pins.apply, Pins.set]

theorem Pins.foldl_touch (es : List LcdEvent) (p : Pins) :
    ((es.flatMap LcdEvent.levelP).foldl Pins.apply p).tCs = p.tCs ∧
      ((es.flatMap LcdEvent.levelP).foldl Pins.apply p).tClk = p.tClk ∧
      ((es.flatMap LcdEvent.levelP).foldl Pins.apply p).tDo = p.tDo := by
  induction es generalizing p with
  | nil => simp
  | cons e es ih =>
    rw [List.flatMap_cons, List.foldl_append]
    obtain ⟨h1, h2, h3⟩ := ih (e.levelP.foldl Pins.apply p)
    obtain ⟨g1, g2, g3⟩ := Pins.apply_touch p e
    exact ⟨h1.trans g1, h2.trans g2, h3.trans g3⟩

/-! ### LCD.INIT -/

theorem runSteps_eq (n : Nat) (steps : List (List LcdEvent)) (s : State) :
    ∃ w, runSteps n steps s = (lcdEvents steps.flatten s).setWork w := by
  induction steps generalizing n s with
  | nil => exact ⟨s.work, rfl⟩
  | cons es rest ih =>
    obtain ⟨w, h⟩ := ih (n + 1) (lcdEvents es (s.setInitStep n))
    refine ⟨w, ?_⟩
    rw [runSteps, h, List.flatten_cons, lcdEvents_append, State.setInitStep, lcdEvents_setWork, lcdEvents_setWork,
      State.setWork_setWork]

theorem boundHalf_zero : boundHalf 0 = 0#16 := rfl

theorem boundHalf_pred (n : Nat) (h : 1 ≤ n) : boundHalf ((n : Int) - 1) = BitVec.ofNat 16 (n - 1) := by
  have : (n : Int) - 1 = ((n - 1 : Nat) : Int) := by omega
  rw [boundHalf, this, BitVec.ofInt_natCast]

theorem initSteps_flatten (c : Config) (hw : 1 ≤ c.panelW) (hh : 1 ≤ c.panelH) :
    (initHead c).flatten ++ initClear c ++ (initTail c).flatten ++ [.lcdDesel] = initEvents c := by
  have h1 := boundHalf_pred _ hw
  have h2 := boundHalf_pred _ hh
  unfold initEvents initHead initTail initClear clearPanel window wholePanel
  simp only [h1, h2, boundHalf_zero]
  cases c.clearOnInit <;> simp [List.append_assoc]

/-- The sequence of LCD.INIT is its event list (R153). -/
theorem initSequence_eq (s : State) (hw : 1 ≤ s.cfg.panelW) (hh : 1 ≤ s.cfg.panelH) :
    ∃ w, initSequence s = (lcdEvents (initEvents s.cfg) s).setWork w := by
  obtain ⟨w1, h1⟩ := runSteps_eq 0 (initHead s.cfg) s
  have key : ∀ wk wl : Work,
      ∃ w, lcdEvent (runSteps 12 (initTail s.cfg) ((lcdEvents (initClear s.cfg)
          ((lcdEvents (initHead s.cfg).flatten s).setWork wk)).setWork wl)) .lcdDesel =
        (lcdEvents (initEvents s.cfg) s).setWork w := by
    intro wk wl
    obtain ⟨w3, h3⟩ := runSteps_eq 12 (initTail s.cfg)
      ((lcdEvents (initClear s.cfg) ((lcdEvents (initHead s.cfg).flatten s).setWork wk)).setWork wl)
    refine ⟨w3, ?_⟩
    rw [h3, lcdEvents_setWork, lcdEvents_setWork, lcdEvents_setWork, State.setWork_setWork, State.setWork_setWork,
      lcdEvent_setWork, lcdEvents_one, ← lcdEvents_append, ← lcdEvents_append, ← lcdEvents_append,
      ← initSteps_flatten s.cfg hw hh]
    simp only [List.append_assoc]
  unfold initSequence
  simp only [h1, State.setLcd, State.setInitStep, State.setWork_setWork]
  split <;> exact key _ _

/-! ### LCD.FLUSH -/

theorem streamCols_eq (buf : List Half) (w : LcdWork) (row idx : Int) (n : Nat) (col : Int) (prev : Option Half)
    (s : State) :
    ∃ wk, streamCols buf w row idx n col prev s =
      (lcdEvents (runCode prev ((List.range n).map fun (j : Nat) => memRead buf (idx + col + j))) s).setWork wk := by
  induction n generalizing col prev s with
  | zero => exact ⟨s.work, rfl⟩
  | succ n ih =>
    obtain ⟨wk, h⟩ := ih (col + 1) (some (memRead buf (idx + col)))
      ((lcdEvent s (pixelEvent prev (memRead buf (idx + col)))).setLcd
        (some (w.at row idx (col + 1) (some (memRead buf (idx + col))))))
    refine ⟨wk, ?_⟩
    have hidx : ∀ j : Nat, idx + (col + 1) + (j : Int) = idx + col + ((j + 1 : Nat) : Int) := by
      intro j; push_cast; ring
    simp only [streamCols, h]
    rw [State.setLcd, lcdEvents_setWork, State.setWork_setWork, List.range_succ_eq_map]
    simp [runCode, pixelEvent, hidx, Function.comp_def, lcdEvents_cons]

theorem streamRows_eq (r : Region) (buf : List Half) (k : Clip) (w : LcdWork) (n : Nat) (row : Int) (s : State)
    (hx : w.cx1 = k.cx1) (ha : w.actW = k.actWidth) :
    ∃ wk, streamRows r buf w n row s =
      (lcdEvents (streamEvents ((List.range n).map fun (i : Nat) => rowPixels r k buf (row + i))) s).setWork wk := by
  induction n generalizing row s with
  | zero => exact ⟨s.work, rfl⟩
  | succ n ih =>
    obtain ⟨w1, h1⟩ := streamCols_eq buf w row (bufIndex r w.cx1 row) w.actW.toNat 0 none
      (s.setLcd (some (w.at row (bufIndex r w.cx1 row) 0 none)))
    obtain ⟨wk, h⟩ := ih (row + 1) (streamCols buf w row (bufIndex r w.cx1 row) w.actW.toNat 0 none
      (s.setLcd (some (w.at row (bufIndex r w.cx1 row) 0 none))))
    refine ⟨wk, ?_⟩
    have hrow : ∀ i : Nat, row + 1 + (i : Int) = row + ((i + 1 : Nat) : Int) := by
      intro i; push_cast; ring
    have hpix : ∀ j : Nat, bufIndex r w.cx1 row + (j : Int) = bufIndex r (k.cx1 + j) row := by
      intro j; unfold bufIndex; rw [hx]; ring
    simp only [streamRows]
    rw [h, h1, List.range_succ_eq_map]
    simp only [State.setLcd, lcdEvents_setWork, State.setWork_setWork]
    simp [streamEvents, rowPixels, hrow, hpix, ha, Function.comp_def, lcdEvents_append]

/-- The non-empty path of LCD.FLUSH is its event list but for the callback (R160). -/
theorem flushStream_eq (r : Region) (buf : List Half) (k : Clip) (s : State) :
    ∃ wk, flushStream r buf k s =
      (lcdEvents ([.lcdSel] ++ window s.cfg k ++ [.lcdCmd s.cfg.cmdMemWrite] ++ streamEvents (clippedRows r k buf) ++
          [.lcdDesel]) s).setWork wk := by
  obtain ⟨wk, h⟩ := streamRows_eq r buf k (flushWork r k) k.rows.toNat k.cy1
    (lcdEvents (.lcdSel :: window s.cfg k ++ [.lcdCmd s.cfg.cmdMemWrite]) (s.setLcd (some (flushWork r k)))) rfl rfl
  refine ⟨wk, ?_⟩
  simp only [flushStream, h]
  rw [State.setLcd, lcdEvents_setWork, lcdEvents_setWork, State.setWork_setWork, lcdEvent_setWork]
  simp [lcdEvents_append, lcdEvents_cons, clippedRows]

end Sys2Proof.Machine
end

