-- ==== Sys2Proof/Laws/Touch.lean ====
section
/-!
SUPPORT. What a sample, a touch exchange, a Denoise and a session do: the fields they leave alone (`TouchFrame`), their
traces, their results (42_touch_sampler.md R193, R196, R199, R206).
-/

namespace Sys2Proof.Machine

/-! ### The frame of touch work -/

/-- Everything touch work leaves as it was (R190, R25): the configuration registers, the flags, the LCD lines, the latch,
what the controller received, and the host's side. -/
structure TouchFrame (s t : State) : Prop where
  cal : t.cal = s.cal
  ori : t.ori = s.ori
  tdim : t.tdim = s.tdim
  prevPressed : t.prevPressed = s.prevPressed
  lcdReady : t.lcdReady = s.lcdReady
  tchReady : t.tchReady = s.tchReady
  busy : t.busy = s.busy
  latch : t.latch = s.latch
  cfg : t.cfg = s.cfg
  calls : t.calls = s.calls
  result : t.result = s.result
  delivered : t.delivered = s.delivered
  lcdPins : t.pin = { s.pin with tCs := t.pin.tCs, tClk := t.pin.tClk, tDo := t.pin.tDo }

theorem TouchFrame.refl (s : State) : TouchFrame s s := by constructor <;> rfl

theorem TouchFrame.trans {s t u : State} (h : TouchFrame s t) (g : TouchFrame t u) : TouchFrame s u := by
  constructor
  case lcdPins => rw [g.lcdPins, h.lcdPins]
  all_goals first
    | exact g.cal.trans h.cal | exact g.ori.trans h.ori | exact g.tdim.trans h.tdim
    | exact g.prevPressed.trans h.prevPressed | exact g.lcdReady.trans h.lcdReady
    | exact g.tchReady.trans h.tchReady | exact g.busy.trans h.busy | exact g.latch.trans h.latch
    | exact g.cfg.trans h.cfg | exact g.calls.trans h.calls | exact g.result.trans h.result
    | exact g.delivered.trans h.delivered

theorem TouchFrame.setWork (s : State) (w : Work) : TouchFrame s (s.setWork w) := by constructor <;> rfl

theorem TouchFrame.setFsm (s : State) (f : Fsm) : TouchFrame s (s.setFsm f) := by constructor <;> rfl

theorem TouchFrame.emitF (s : State) (e : EventF) : TouchFrame s (s.emitF e) := by constructor <;> rfl

/-- Level-P events that drive no LCD line. -/
def touchOnly : EventP → Bool
  | .set .tCs _ | .set .tClk _ | .set .tDo _ | .get _ _ | .spin _ | .config => true
  | .set .lRst _ | .set .lCs _ | .set .lDc _ | .set .lWr _ | .set .lLe _ | .setData _ | .sleepMs _ | .callback => false

theorem Pins.foldl_touchOnly (es : List EventP) (p : Pins) (h : es.all touchOnly = true) :
    es.foldl Pins.apply p =
      { p with tCs := (es.foldl Pins.apply p).tCs, tClk := (es.foldl Pins.apply p).tClk,
               tDo := (es.foldl Pins.apply p).tDo } := by
  induction es generalizing p with
  | nil => rfl
  | cons e es ih =>
    rw [List.all_cons, Bool.and_eq_true] at h
    rw [List.foldl_cons, ih (p.apply e) h.2]
    cases e with
    | set l v => cases l <;> simp [touchOnly] at h <;> rfl
    | _ => simp [touchOnly] at h <;> rfl

theorem TouchFrame.emitP (s : State) (es : List EventP) (h : es.all touchOnly = true) : TouchFrame s (s.emitP es) := by
  constructor
  case lcdPins => exact Pins.foldl_touchOnly es s.pin h
  all_goals rfl

theorem TouchFrame.setTdi (s : State) (b : List Bool) : TouchFrame s (s.setTdi b) := by constructor <;> rfl

theorem TouchFrame.setRdy (s : State) (b : List Bool) : TouchFrame s (s.setRdy b) := by constructor <;> rfl

theorem TouchFrame.countAsk (s : State) : TouchFrame s s.countAsk := by constructor <;> rfl

/-! ### Samples (R19) -/

theorem sampleTdi_frame (s : State) : TouchFrame s (sampleTdi s).2 := by
  unfold sampleTdi
  split
  · exact .setTdi _ _
  · exact .countAsk _

theorem sampleRdy_frame (s : State) : TouchFrame s (sampleRdy s).2 := by
  unfold sampleRdy
  split
  · exact .setRdy _ _
  · exact .countAsk _

section
variable (s : State)

@[simp] theorem sampleTdi_cfg : (sampleTdi s).2.cfg = s.cfg := (sampleTdi_frame s).cfg
@[simp] theorem sampleTdi_fsm : (sampleTdi s).2.fsm = s.fsm := by unfold sampleTdi; split <;> rfl
@[simp] theorem sampleTdi_pin : (sampleTdi s).2.pin = s.pin := by unfold sampleTdi; split <;> rfl
@[simp] theorem sampleTdi_work : (sampleTdi s).2.work = s.work := by unfold sampleTdi; split <;> rfl
@[simp] theorem sampleTdi_rdy : (sampleTdi s).2.rdy = s.rdy := by unfold sampleTdi; split <;> rfl
@[simp] theorem sampleTdi_traceF : (sampleTdi s).2.traceF = s.traceF := by unfold sampleTdi; split <;> rfl
@[simp] theorem sampleTdi_traceP : (sampleTdi s).2.traceP = s.traceP := by unfold sampleTdi; split <;> rfl

@[simp] theorem sampleRdy_cfg : (sampleRdy s).2.cfg = s.cfg := (sampleRdy_frame s).cfg
@[simp] theorem sampleRdy_fsm : (sampleRdy s).2.fsm = s.fsm := by unfold sampleRdy; split <;> rfl
@[simp] theorem sampleRdy_pin : (sampleRdy s).2.pin = s.pin := by unfold sampleRdy; split <;> rfl
@[simp] theorem sampleRdy_work : (sampleRdy s).2.work = s.work := by unfold sampleRdy; split <;> rfl
@[simp] theorem sampleRdy_tdi : (sampleRdy s).2.tdi = s.tdi := by unfold sampleRdy; split <;> rfl
@[simp] theorem sampleRdy_traceF : (sampleRdy s).2.traceF = s.traceF := by unfold sampleRdy; split <;> rfl
@[simp] theorem sampleRdy_traceP : (sampleRdy s).2.traceP = s.traceP := by unfold sampleRdy; split <;> rfl

end

/-- A supplied answer is the answer, and is used up. -/
theorem sampleTdi_supplied (s : State) (b : Bool) (rest : List Bool) (h : s.tdi = b :: rest) :
    sampleTdi s = (b, s.setTdi rest) := by
  unfold sampleTdi; split <;> simp_all

theorem sampleRdy_supplied (s : State) (b : Bool) (rest : List Bool) (h : s.rdy = b :: rest) :
    sampleRdy s = (b, s.setRdy rest) := by
  unfold sampleRdy; split <;> simp_all

/-! ### The command phase (R193, R194) -/

theorem commandPhase_spec (n : Nat) (sr : Byte) (sent : Nat) (s : State) :
    TouchFrame s (commandPhase n sr sent s) ∧ (commandPhase n sr sent s).traceF = s.traceF ∧
    (commandPhase n sr sent s).tdi = s.tdi ∧ (commandPhase n sr sent s).rdy = s.rdy ∧ (commandPhase n sr sent s).asked = s.asked ∧
    (commandPhase n sr sent s).fsm = s.fsm ∧ (commandPhase n sr sent s).pin.tCs = s.pin.tCs ∧
    (∀ x, ((commandPhase n sr sent s).setXchg x).work = (s.setXchg x).work) := by
  induction n generalizing sr sent s with
  | zero => exact ⟨.refl s, rfl, rfl, rfl, rfl, rfl, rfl, fun _ => rfl⟩
  | succ n ih =>
    rw [commandPhase]
    obtain ⟨h1, h2, h3, h4, h5, h6, h7, h8⟩ := ih (sr <<< 1) (sent + 1)
      ((s.emitP (commandBit sr.msb)).setXchg (some (commandWork (sr <<< 1) (sent + 1))))
    refine ⟨(TouchFrame.trans (.trans (.emitP _ _ ?_) (.setWork _ _)) h1), h2.trans ?_, h3.trans ?_, h4.trans ?_,
      h5.trans ?_, h6.trans ?_, h7.trans ?_, fun x => (h8 x).trans ?_⟩ <;>
    simp [commandBit, touchOnly, Pins.apply, Pins.set]

theorem commandBits_msb (c : Byte) :
    commandBits c = [(c <<< 0).msb, (c <<< 1).msb, (c <<< 2).msb, (c <<< 3).msb, (c <<< 4).msb, (c <<< 5).msb,
      (c <<< 6).msb, (c <<< 7).msb] := by
  have h : ∀ i, i < 8 → (c <<< i).msb = c.getLsbD (7 - i) := by
    intro i hi
    rw [BitVec.msb_eq_getLsbD_last, BitVec.getLsbD_shiftLeft]
    have : ¬ 7 < i := by omega
    simp [this]
  rw [h 0 (by omega), h 1 (by omega), h 2 (by omega), h 3 (by omega), h 4 (by omega), h 5 (by omega), h 6 (by omega),
    h 7 (by omega)]
  rfl

theorem commandPhase_traceP (c : Byte) (sent : Nat) (s : State) :
    (commandPhase 8 c sent s).traceP = s.traceP ++ (commandBits c).flatMap commandBit := by
  rw [commandBits_msb]
  simp only [commandPhase, State.setXchg_traceP, State.emitP_traceP, ← BitVec.shiftLeft_add]
  simp

/-! ### The response phase (R193, R195) -/

/-- The state after clock `k`, which wrote the counter as it began, and after the sample that follows it if it is one of the
middle twelve (R195). -/
def afterClock (k : Nat) (r : Raw) (s : State) : State :=
  (s.setXchg (some (responseWork r (some k)))).emitP responseClock

def afterSample (k : Nat) (r : Raw) (s : State) : State :=
  ((sampleTdi (afterClock k r s)).2.emitP [.get .tDi (sampleTdi (afterClock k r s)).1]).setXchg
    (some (responseWork (shiftIn r (sampleTdi (afterClock k r s)).1) (some k)))

theorem responsePhase_succ (n k : Nat) (r : Raw) (s : State) :
    responsePhase (n + 1) k r s =
      if sampled s.cfg k then
        responsePhase n (k + 1) (shiftIn r (sampleTdi (afterClock k r s)).1) (afterSample k r s)
      else responsePhase n (k + 1) r (afterClock k r s) := rfl

theorem afterClock_frame (k : Nat) (r : Raw) (s : State) : TouchFrame s (afterClock k r s) :=
  .trans (.setWork _ _) (.emitP _ _ (by simp [responseClock, touchOnly]))

theorem afterSample_frame (k : Nat) (r : Raw) (s : State) : TouchFrame s (afterSample k r s) :=
  .trans (.trans (.trans (afterClock_frame k r s) (sampleTdi_frame _)) (.emitP _ _ (by simp [touchOnly]))) (.setWork _ _)

theorem responsePhase_frame (n k : Nat) (r : Raw) (s : State) : TouchFrame s (responsePhase n k r s).2 := by
  induction n generalizing k r s with
  | zero => exact .refl s
  | succ n ih =>
    rw [responsePhase_succ]
    split
    · exact .trans (afterSample_frame k r s) (ih _ _ _)
    · exact .trans (afterClock_frame k r s) (ih _ _ _)

@[simp] theorem responsePhase_traceF (n k : Nat) (r : Raw) (s : State) :
    (responsePhase n k r s).2.traceF = s.traceF := by
  induction n generalizing k r s with
  | zero => rfl
  | succ n ih => rw [responsePhase_succ]; split <;> simp [ih, afterClock, afterSample]

@[simp] theorem responsePhase_fsm (n k : Nat) (r : Raw) (s : State) : (responsePhase n k r s).2.fsm = s.fsm := by
  induction n generalizing k r s with
  | zero => rfl
  | succ n ih => rw [responsePhase_succ]; split <;> simp [ih, afterClock, afterSample]

@[simp] theorem responsePhase_rdy (n k : Nat) (r : Raw) (s : State) : (responsePhase n k r s).2.rdy = s.rdy := by
  induction n generalizing k r s with
  | zero => rfl
  | succ n ih => rw [responsePhase_succ]; split <;> simp [ih, afterClock, afterSample]

theorem responsePhase_work (n k : Nat) (r : Raw) (s : State) (x : Option XchgWork) :
    ((responsePhase n k r s).2.setXchg x).work = (s.setXchg x).work := by
  induction n generalizing k r s with
  | zero => rfl
  | succ n ih => rw [responsePhase_succ]; split <;> rw [ih] <;> simp [afterClock, afterSample]

theorem responsePhase_pins (n k : Nat) (r : Raw) (s : State) :
    (responsePhase n k r s).2.pin.tCs = s.pin.tCs ∧ (responsePhase n k r s).2.pin.tDo = s.pin.tDo ∧
      (s.pin.tClk = some false → (responsePhase n k r s).2.pin.tClk = some false) := by
  induction n generalizing k r s with
  | zero => exact ⟨rfl, rfl, id⟩
  | succ n ih =>
    rw [responsePhase_succ]
    split <;> refine ⟨(ih _ _ _).1.trans ?_, (ih _ _ _).2.1.trans ?_, fun _ => (ih _ _ _).2.2 ?_⟩ <;>
      simp [afterClock, afterSample, responseClock, Pins.apply, Pins.set]

/-- What the response phase computes and how its clocks show at level P, for the twelve answers `bits` it gets. -/
theorem responsePhase_answers (n k : Nat) (r : Raw) (s : State) :
    ∃ bits : List Bool, bits.length = (List.range' k n).countP (sampled s.cfg) ∧
      (responsePhase n k r s).1 = bits.foldl shiftIn r ∧
      (responsePhase n k r s).2.traceP = s.traceP ++ (List.range' k n).flatMap (fun i =>
        responseClock ++ (if sampled s.cfg i then
          [EventP.get .tDi (bits.getD ((List.range' k (i - k)).countP (sampled s.cfg)) false)] else [])) := by
  induction n generalizing k r s with
  | zero => exact ⟨[], by simp [responsePhase]⟩
  | succ n ih =>
    have hcount : ∀ i ∈ List.range' (k + 1) n, List.countP (sampled s.cfg) (List.range' k (i - k)) =
        List.countP (sampled s.cfg) (List.range' (k + 1) (i - (k + 1))) + (if sampled s.cfg k then 1 else 0) := by
      intro i hi
      rw [List.mem_range'_1] at hi
      rw [show i - k = (i - (k + 1)) + 1 by omega, List.range'_succ, List.countP_cons]
    rw [responsePhase_succ]
    split
    · rename_i hs
      obtain ⟨bits, h1, h2, h3⟩ := ih (k + 1) (shiftIn r (sampleTdi (afterClock k r s)).1) (afterSample k r s)
      refine ⟨(sampleTdi (afterClock k r s)).1 :: bits, ?_, h2, ?_⟩
      · simp [h1, (afterSample_frame k r s).cfg, List.range'_succ, hs]
      · rw [h3, List.range'_succ]
        simp only [afterSample, afterClock, State.setXchg_traceP, State.setXchg_cfg, State.emitP_traceP, State.emitP_cfg,
          sampleTdi_traceP, sampleTdi_cfg, List.flatMap_cons, hs, if_true, Nat.sub_self, List.range'_zero,
          List.countP_nil, List.getD_cons_zero, List.append_assoc]
        congr 3
        refine List.flatMap_congr fun i hi => ?_
        rw [hcount i hi, if_pos hs, List.getD_cons_succ]
    · rename_i hs
      obtain ⟨bits, h1, h2, h3⟩ := ih (k + 1) r (afterClock k r s)
      refine ⟨bits, ?_, h2, ?_⟩
      · simpa [afterClock, List.range'_succ, hs] using h1
      · rw [h3, List.range'_succ]
        simp only [afterClock, State.setXchg_traceP, State.setXchg_cfg, State.emitP_traceP, State.emitP_cfg,
          List.flatMap_cons, hs, List.append_assoc]
        congr 2
        refine List.flatMap_congr fun i hi => ?_
        rw [hcount i hi]
        simp [hs]

/-- The position inside an exchange moves forward only (R33): after `n` more bits of the command it is `sent + n`, and
`k` has no value yet. -/
theorem commandPhase_position (n sent : Nat) (sr : Byte) (s : State) (h : s.work.xchg = some (commandWork sr sent)) :
    (commandPhase n sr sent s).work.xchg = some (commandWork (sr <<< n) (sent + n)) := by
  induction n generalizing sr sent s with
  | zero => simpa [commandPhase] using h
  | succ n ih =>
    rw [commandPhase, ih _ _ _ rfl, ← BitVec.shiftLeft_add, Nat.add_comm 1 n, Nat.add_assoc, Nat.add_comm 1 n]

/-- In the response phase it is the clock counter: after `n` clocks from clock `k` on, the last of them (R33, R193). -/
theorem responsePhase_position (n k : Nat) (r : Raw) (s : State) :
    (responsePhase (n + 1) k r s).2.work.xchg =
      some (responseWork (responsePhase (n + 1) k r s).1 (some (k + n))) := by
  induction n generalizing k r s with
  | zero => rw [responsePhase_succ]; split <;> simp [responsePhase, afterClock, afterSample]
  | succ n ih => rw [responsePhase_succ]; split <;> rw [ih, Nat.add_assoc, Nat.add_comm 1 n]

/-! ### The result (R109, R110) -/

theorem shiftIn_getLsbD (r : Raw) (b : Bool) (j : Nat) (hj : j < 12) :
    (shiftIn r b).getLsbD j = if j = 0 then b else r.getLsbD (j - 1) := by
  unfold shiftIn
  rw [BitVec.getLsbD_or, BitVec.getLsbD_shiftLeft]
  rcases Nat.eq_zero_or_pos j with h | h
  · subst h; cases b <;> simp
  · have h1 : ¬ j < 1 := by omega
    have h2 : j ≠ 0 := by omega
    cases b <;> simp [hj, h1, h2]

theorem foldl_shiftIn_getLsbD (bits : List Bool) (r : Raw) (j : Nat) (hj : j < 12) :
    (bits.foldl shiftIn r).getLsbD j =
      if j < bits.length then bits.getD (bits.length - 1 - j) false else r.getLsbD (j - bits.length) := by
  induction bits generalizing r with
  | nil => simp
  | cons b bs ih =>
    rw [List.foldl_cons, ih]
    rcases Nat.lt_trichotomy j bs.length with h | h | h
    · have h1 : j < bs.length + 1 := by omega
      rw [if_pos h, List.length_cons, if_pos h1, show bs.length + 1 - 1 - j = (bs.length - 1 - j) + 1 by omega,
        List.getD_cons_succ]
    · rw [if_neg (by omega), List.length_cons, if_pos (by omega), h, Nat.sub_self, shiftIn_getLsbD _ _ _ (by omega),
        if_pos rfl]
      simp
    · have h1 : ¬ j < bs.length := by omega
      have h2 : ¬ j < bs.length + 1 := by omega
      rw [if_neg h1, List.length_cons, if_neg h2, shiftIn_getLsbD _ _ _ (by omega), if_neg (by omega),
        Nat.sub_sub]

/-- Twelve bits shifted in, read back from bit 11 down (R110). -/
theorem twelve_bits (bits : List Bool) (h : bits.length = 12) (i : Nat) (hi : i < 12) :
    (bits.foldl shiftIn 0#12).getLsbD (11 - i) = bits.getD i false := by
  rw [foldl_shiftIn_getLsbD _ _ _ (by omega), h, if_pos (by omega)]
  congr 1
  omega

theorem foldl_responseBits (r : Raw) : (responseBits r).foldl shiftIn 0#12 = r := by
  have hlen : (responseBits r).length = 12 := by simp [responseBits]
  apply BitVec.eq_of_getLsbD_eq
  intro j hj
  have h := twelve_bits _ hlen (11 - j) (by omega)
  rw [show 11 - (11 - j) = j by omega] at h
  rw [h]
  simp [responseBits, List.getD_eq_getElem?_getD, show 11 - j < 12 by omega, show 11 - (11 - j) = j by omega]

/-- Twelve of the sixteen clocks are sampled (R109). -/
theorem sampled_twelve (c : Config) (h : c.respSkip ≤ 4) : (List.range' 1 16).countP (sampled c) = 12 := by
  unfold sampled
  generalize c.respSkip = m at h
  interval_cases m <;> decide

/-- A sampled clock is preceded by `k - RESP_SKIP - 1` sampled ones. -/
theorem sampled_before (c : Config) (h : c.respSkip ≤ 4) (k : Nat) (hk : k ∈ List.range' 1 16) (hs : sampled c k = true) :
    (List.range' 1 (k - 1)).countP (sampled c) = k - c.respSkip - 1 := by
  rw [List.mem_range'_1] at hk
  unfold sampled at *
  generalize c.respSkip = m at *
  obtain ⟨h1, h2⟩ := hk
  interval_cases m <;> interval_cases k <;> first | decide | simp at hs

/-! ### One exchange -/

/-- The state as an exchange of `c` begins: its working registers come alive (R31, R193). -/
def begun (c : Byte) (s : State) : State := s.setXchg (some (commandWork c 0))

/-- The state before the response phase. -/
def commanded (c : Byte) (s : State) : State :=
  ((commandPhase 8 c 0 (begun c s)).emitP [.set .tDo false]).setXchg (some (responseWork 0#12 none))

theorem commanded_frame (c : Byte) (s : State) : TouchFrame s (commanded c s) :=
  .trans (.trans (.trans (.setWork _ _) (commandPhase_spec 8 c 0 (begun c s)).1) (.emitP _ _ (by simp [touchOnly])))
    (.setWork _ _)

/-- What the command phase leaves alone beside the frame. -/
theorem commanded_spec (c : Byte) (s : State) :
    (commanded c s).traceF = s.traceF ∧ (commanded c s).tdi = s.tdi ∧ (commanded c s).rdy = s.rdy ∧
      (commanded c s).asked = s.asked ∧ (commanded c s).fsm = s.fsm ∧ (commanded c s).pin.tCs = s.pin.tCs ∧
      (∀ x, ((commanded c s).setXchg x).work = (s.setXchg x).work) := by
  obtain ⟨-, h1, h2, h3, h4, h5, h6, h7⟩ := commandPhase_spec 8 c 0 (begun c s)
  unfold commanded
  generalize commandPhase 8 c 0 (begun c s) = v at *
  refine ⟨h1, h2, h3, h4, h5, h6, fun x => ?_⟩
  simpa [begun] using h7 x

theorem commanded_traceP (c : Byte) (s : State) :
    (commanded c s).traceP = s.traceP ++ (commandBits c).flatMap commandBit ++ [.set .tDo false] := by
  rw [commanded, State.setXchg_traceP, State.emitP_traceP, commandPhase_traceP, begun, State.setXchg_traceP]

theorem commandPhase_tClk (n : Nat) (sr : Byte) (sent : Nat) (s : State) (h : n ≠ 0 ∨ s.pin.tClk = some false) :
    (commandPhase n sr sent s).pin.tClk = some false := by
  induction n generalizing sr sent s with
  | zero => exact h.resolve_left (· rfl)
  | succ n ih => exact ih _ _ _ (.inr (by simp [commandBit, Pins.apply, Pins.set]))

theorem commanded_tClk (c : Byte) (s : State) : (commanded c s).pin.tClk = some false := by
  have h := commandPhase_tClk 8 c 0 (begun c s) (.inl (by decide))
  simpa [commanded, Pins.apply, Pins.set] using h

theorem commanded_tDo (c : Byte) (s : State) : (commanded c s).pin.tDo = some false := by
  simp [commanded, Pins.apply, Pins.set]

theorem exchange_eq (c : Byte) (s : State) :
    exchange c s =
      ((responsePhase 16 1 0#12 (commanded c s)).1,
        ((responsePhase 16 1 0#12 (commanded c s)).2.setXchg none).emitF
          (.tch (.tchXchg c (responsePhase 16 1 0#12 (commanded c s)).1))) := rfl

theorem exchange_frame (c : Byte) (s : State) : TouchFrame s (exchange c s).2 := by
  rw [exchange_eq]
  exact .trans (.trans (.trans (commanded_frame c s) (responsePhase_frame _ _ _ _)) (.setWork _ _)) (.emitF _ _)

@[simp] theorem exchange_fsm (c : Byte) (s : State) : (exchange c s).2.fsm = s.fsm := by
  rw [exchange_eq]
  simp [(commanded_spec c s).2.2.2.2.1]

@[simp] theorem exchange_rdy (c : Byte) (s : State) : (exchange c s).2.rdy = s.rdy := by
  rw [exchange_eq]
  simp [(commanded_spec c s).2.2.1]

@[simp] theorem exchange_traceF (c : Byte) (s : State) :
    (exchange c s).2.traceF = s.traceF ++ [.tch (.tchXchg c (exchange c s).1)] := by
  rw [exchange_eq]
  simp [(commanded_spec c s).1]

@[simp] theorem exchange_work (c : Byte) (s : State) : (exchange c s).2.work = { s.work with xchg := none } := by
  rw [exchange_eq, State.emitF_work, responsePhase_work, (commanded_spec c s).2.2.2.2.2.2, State.setXchg_work]

/-- After an exchange the clock and the data-out line are low, the chip-select as it was (R191). -/
theorem exchange_pins (c : Byte) (s : State) :
    (exchange c s).2.pin.tCs = s.pin.tCs ∧ (exchange c s).2.pin.tClk = some false ∧
      (exchange c s).2.pin.tDo = some false := by
  rw [exchange_eq]
  obtain ⟨h1, h2, h3⟩ := responsePhase_pins 16 1 0#12 (commanded c s)
  exact ⟨h1.trans (commanded_spec c s).2.2.2.2.2.1, h3 (commanded_tClk c s), h2.trans (commanded_tDo c s)⟩

/-- The level-P events of an exchange are those of R193 for its result. -/
theorem exchange_traceP (c : Byte) (s : State) (h : s.cfg.respSkip ≤ 4) :
    (exchange c s).2.traceP = s.traceP ++ (TchEvent.tchXchg c (exchange c s).1).levelP s.cfg := by
  have hcfg : (commanded c s).cfg = s.cfg := (commanded_frame c s).cfg
  obtain ⟨bits, h1, h2, h3⟩ := responsePhase_answers 16 1 0#12 (commanded c s)
  rw [hcfg] at h1 h3
  have hlen : bits.length = 12 := h1.trans (sampled_twelve _ h)
  rw [exchange_eq]
  simp only [State.emitF_traceP, State.setXchg_traceP]
  rw [h3, h2, commanded_traceP]
  simp only [TchEvent.levelP, responseEvents, List.append_assoc]
  congr 3
  refine List.flatMap_congr fun k hk => ?_
  by_cases hs : sampled s.cfg k = true
  · rw [if_pos hs, if_pos hs, sampled_before _ h k hk hs]
    rw [List.mem_range'_1] at hk
    have hs' := hs
    simp only [sampled, Bool.and_eq_true, decide_eq_true_eq] at hs'
    have hb := twelve_bits bits hlen (k - s.cfg.respSkip - 1) (by omega)
    rw [show 11 - (k - s.cfg.respSkip - 1) = s.cfg.respSkip + 12 - k by omega] at hb
    rw [hb]
  · rw [if_neg hs, if_neg hs]

/-! ### Supplied answers -/

theorem responsePhase_supplied (n k : Nat) (r : Raw) (s : State) (bits rest : List Bool)
    (hl : bits.length = (List.range' k n).countP (sampled s.cfg)) (ht : s.tdi = bits ++ rest) :
    (responsePhase n k r s).1 = bits.foldl shiftIn r ∧ (responsePhase n k r s).2.tdi = rest ∧
      (responsePhase n k r s).2.asked = s.asked := by
  induction n generalizing k r s bits with
  | zero =>
    have : bits = [] := by simpa using hl
    subst this
    exact ⟨rfl, ht, rfl⟩
  | succ n ih =>
    rw [responsePhase_succ]
    rw [List.range'_succ, List.countP_cons] at hl
    split
    · rename_i hs
      cases bits with
      | nil => simp [hs] at hl
      | cons b bs =>
        have hsup := sampleTdi_supplied (afterClock k r s) b (bs ++ rest) ht
        simp only [afterSample, hsup]
        refine (ih _ _ _ bs ?_ ?_).imp_right (.imp_right fun h => h.trans ?_)
        · simpa [hs, (afterClock_frame k r s).cfg] using hl
        · simp
        · simp [afterClock]
    · rename_i hs
      refine (ih _ _ _ bits ?_ ?_).imp_right (.imp_right fun h => h.trans ?_)
      · simpa [afterClock, hs] using hl
      · simpa [afterClock] using ht
      · simp [afterClock]

/-- An exchange whose twelve answers are supplied returns them, most significant bit first, and uses up just those. -/
theorem exchange_supplied (c : Byte) (s : State) (r : Raw) (rest : List Bool) (h : s.cfg.respSkip ≤ 4)
    (ht : s.tdi = responseBits r ++ rest) :
    (exchange c s).1 = r ∧ (exchange c s).2.tdi = rest ∧ (exchange c s).2.asked = s.asked := by
  have hcfg : (commanded c s).cfg = s.cfg := (commanded_frame c s).cfg
  obtain ⟨h1, h2, h3⟩ := responsePhase_supplied 16 1 0#12 (commanded c s)
    (responseBits r) rest (by rw [hcfg, sampled_twelve _ h]; simp [responseBits])
    ((commanded_spec c s).2.1.trans ht)
  rw [foldl_responseBits] at h1
  rw [exchange_eq, State.emitF_tdi, State.setXchg_tdi, State.emitF_asked, State.setXchg_asked]
  exact ⟨h1, h2, h3.trans (commanded_spec c s).2.2.2.1⟩

/-! ### Runs of touch events -/

/-- Touch work from `s` to `t` whose level-F events are `es`: the frame, both traces (level P for a legal `RESP_SKIP`),
and the clock and data-out lines low again if they were (R190, R191). -/
structure TouchRun (es : List TchEvent) (s t : State) : Prop where
  frame : TouchFrame s t
  traceF : t.traceF = s.traceF ++ es.map .tch
  traceP : s.cfg.respSkip ≤ 4 → t.traceP = s.traceP ++ es.flatMap (TchEvent.levelP s.cfg)
  low : s.pin.tClk = some false ∧ s.pin.tDo = some false → t.pin.tClk = some false ∧ t.pin.tDo = some false

theorem TouchRun.refl (s : State) : TouchRun [] s s := ⟨.refl s, by simp, by simp, id⟩

theorem TouchRun.trans {es fs : List TchEvent} {s t u : State} (h : TouchRun es s t) (g : TouchRun fs t u) :
    TouchRun (es ++ fs) s u where
  frame := h.frame.trans g.frame
  traceF := by rw [g.traceF, h.traceF]; simp
  traceP := fun hr => by rw [g.traceP (by rw [h.frame.cfg]; exact hr), h.traceP hr, h.frame.cfg]; simp
  low := fun hl => g.low (h.low hl)

theorem TouchRun.setWork (s : State) (w : Work) : TouchRun [] s (s.setWork w) := ⟨.setWork s w, by simp, by simp, id⟩

theorem TouchRun.setFsm (s : State) (f : Fsm) : TouchRun [] s (s.setFsm f) := ⟨.setFsm s f, by simp, by simp, id⟩

theorem exchange_run (c : Byte) (s : State) : TouchRun [.tchXchg c (exchange c s).1] s (exchange c s).2 where
  frame := exchange_frame c s
  traceF := exchange_traceF c s
  traceP := fun h => by rw [exchange_traceP c s h]; simp
  low := fun _ => (exchange_pins c s).2

theorem tchSel_run (s : State) : TouchRun [.tchSel] s (tchSel s) where
  frame := .trans (.emitF _ _) (.emitP _ _ (by simp [touchOnly]))
  traceF := by simp [tchSel]
  traceP := fun _ => by simp [tchSel, TchEvent.levelP]
  low := by simp [tchSel, Pins.apply, Pins.set]

theorem tchDesel_run (s : State) : TouchRun [.tchDesel] s (tchDesel s) where
  frame := .trans (.emitF _ _) (.emitP _ _ (by simp [touchOnly]))
  traceF := by simp [tchDesel]
  traceP := fun _ => by simp [tchDesel, TchEvent.levelP]
  low := by simp [tchDesel, Pins.apply, Pins.set]

theorem tchReadySample_run (s : State) : TouchRun [.tchReady (tchReadySample s).1] s (tchReadySample s).2 where
  frame := .trans (.trans (sampleRdy_frame s) (.emitF _ _)) (.emitP _ _ (by simp [touchOnly]))
  traceF := by simp [tchReadySample]
  traceP := fun _ => by simp [tchReadySample, TchEvent.levelP]
  low := by simp [tchReadySample, Pins.apply]

@[simp] theorem tchSel_tCs (s : State) : (tchSel s).pin.tCs = some true := rfl
@[simp] theorem tchDesel_tCs (s : State) : (tchDesel s).pin.tCs = some false := rfl
@[simp] theorem tchSel_rdy (s : State) : (tchSel s).rdy = s.rdy := rfl
@[simp] theorem tchSel_tdi (s : State) : (tchSel s).tdi = s.tdi := rfl

theorem tchReadySample_tCs (s : State) : (tchReadySample s).2.pin.tCs = s.pin.tCs := by
  simp [tchReadySample, Pins.apply]

theorem tchReadySample_supplied (s : State) (b : Bool) (rest : List Bool) (h : s.rdy = b :: rest) :
    (tchReadySample s).1 = b ∧ (tchReadySample s).2.rdy = rest ∧ (tchReadySample s).2.tdi = s.tdi := by
  unfold tchReadySample
  rw [sampleRdy_supplied s b rest h]
  exact ⟨rfl, rfl, rfl⟩

/-! ### The ring (R34, R35, R199) -/

/-- The fill: `n` readings in order, summed; nothing else of the ring moves. -/
theorem fillRing_spec (n : Nat) (ch : Channel) (g : Ring) (s : State) :
    ∃ rs : List Raw, rs.length = n ∧
      (fillRing n ch g s).1 = { g with entries := g.entries ++ rs, sum := g.sum + (rs.map BitVec.toNat).sum } ∧
      TouchRun (readings s.cfg ch rs) s (fillRing n ch g s).2 ∧ (fillRing n ch g s).2.pin.tCs = s.pin.tCs ∧
      (fillRing n ch g s).2.rdy = s.rdy ∧ (fillRing n ch g s).2.fsm = s.fsm := by
  induction n generalizing g s with
  | zero => exact ⟨[], rfl, by simp [fillRing], .refl s, rfl, rfl, rfl⟩
  | succ n ih =>
    obtain ⟨rs, h1, h2, h3, h4, h5, h6⟩ := ih
      { g with entries := g.entries ++ [(readChannel ch s).1], sum := g.sum + (readChannel ch s).1.toNat }
      ((readChannel ch s).2.setRing (some (Ring.filling
        { g with entries := g.entries ++ [(readChannel ch s).1], sum := g.sum + (readChannel ch s).1.toNat })))
    have hrun := exchange_run (channelCommand s.cfg ch) s
    have hcfg : (readChannel ch s).2.cfg = s.cfg := hrun.frame.cfg
    refine ⟨(readChannel ch s).1 :: rs, by simp [h1], ?_, ?_, ?_, ?_, ?_⟩
    · rw [fillRing, h2]; simp [Nat.add_assoc]
    · rw [State.setRing_cfg, hcfg] at h3
      exact (hrun.trans (.setWork _ _)).trans h3
    · rw [fillRing, h4]; exact (exchange_pins _ s).1
    · rw [fillRing, h5]; exact exchange_rdy _ s
    · rw [fillRing, h6]; exact exchange_fsm _ s

/-- A window of readings, oldest first, and the ring that holds it. -/
def holds (c : Config) (g : Ring) (win : List Raw) : Prop :=
  g.entries.length = c.ringN ∧ g.oldest < c.ringN ∧ g.sum = (g.entries.map BitVec.toNat).sum ∧
    g.entries.rotate g.oldest = win

theorem holds.perm {c : Config} {g : Ring} {win : List Raw} (h : holds c g win) : win.Perm g.entries := by
  rw [← h.2.2.2]; exact List.rotate_perm _ _

theorem holds.sum {c : Config} {g : Ring} {win : List Raw} (h : holds c g win) :
    g.sum = (win.map BitVec.toNat).sum := by
  rw [h.2.2.1]; exact (h.perm.map _).symm.sum_eq

/-- Replacing the oldest entry slides the window by one reading (R202). -/
theorem holds.replace {c : Config} {g : Ring} {w : Raw} {win : List Raw} (h : holds c g (w :: win)) (r : Raw) :
    holds c (replaceOldest c g r) (win ++ [r]) := by
  obtain ⟨hlen, ho, hsum, hrot⟩ := h
  have ho' : g.oldest < g.entries.length := by omega
  rw [List.rotate_eq_drop_append_take ho'.le, List.drop_eq_getElem_cons ho', List.cons_append] at hrot
  have hw : g.entries[g.oldest] = w := (List.cons.inj hrot).1
  have hwin : g.entries.drop (g.oldest + 1) ++ g.entries.take g.oldest = win := (List.cons.inj hrot).2
  have hset : g.entries.set g.oldest r = g.entries.take g.oldest ++ r :: g.entries.drop (g.oldest + 1) :=
    List.set_eq_take_append_cons_drop.trans (if_pos ho')
  have htake : (g.entries.take g.oldest).length = g.oldest := by simp; omega
  refine ⟨by simp [replaceOldest, hlen], Nat.mod_lt _ (by omega), ?_, ?_⟩
  · have hdec : (g.entries.map BitVec.toNat).sum = ((g.entries.take g.oldest).map BitVec.toNat).sum +
        (w.toNat + ((g.entries.drop (g.oldest + 1)).map BitVec.toNat).sum) := by
      rw [← hw, ← List.sum_cons, ← List.map_cons, ← List.drop_eq_getElem_cons ho', ← List.sum_append, ← List.map_append,
        List.take_append_drop]
    simp only [replaceOldest]
    rw [hset, hsum, List.getD_eq_getElem _ _ ho', hw, hdec]
    simp only [List.map_append, List.map_cons, List.sum_append, List.sum_cons]
    omega
  · simp only [replaceOldest]
    rw [show c.ringN = (g.entries.set g.oldest r).length by simp [hlen], List.rotate_mod,
      List.rotate_eq_drop_append_take (by simp; omega), hset, List.drop_append, List.take_append, htake]
    simp only [show g.oldest + 1 - g.oldest = 1 by omega, List.drop_succ_cons, List.drop_zero, List.take_succ_cons,
      List.take_zero]
    rw [List.drop_eq_nil_of_le (by rw [htake]; omega), List.take_of_length_le (by rw [htake]; omega), List.nil_append,
      ← List.append_assoc, hwin]

/-- The ring's mean and test are the window's (R200, R201). -/
theorem holds.check {c : Config} {g : Ring} {xs : List Raw} {j : Nat} (h : holds c g (ringWindow c xs j)) :
    ringMean c g = windowMean c xs j ∧ ringOk c g (ringMean c g) = windowOk c xs j := by
  have hm : ringMean c g = windowMean c xs j := by rw [ringMean, windowMean, h.sum]
  refine ⟨hm, ?_⟩
  rw [hm, ringOk, windowOk, Bool.eq_iff_iff, List.all_eq_true, List.all_eq_true]
  exact ⟨fun H e he => H e (h.perm.mem_iff.1 he), fun H e he => H e (h.perm.mem_iff.2 he)⟩

theorem sum_raw_le (xs : List Raw) : (xs.map BitVec.toNat).sum ≤ xs.length * 4095 := by
  induction xs with
  | nil => simp
  | cons x xs ih => simp only [List.map_cons, List.sum_cons, List.length_cons]; have := x.isLt; omega

/-- A mean is a RAW (R201). -/
theorem windowMean_le (c : Config) (xs : List Raw) (j : Nat) : windowMean c xs j ≤ 4095 := by
  unfold windowMean
  rcases Nat.eq_zero_or_pos c.ringN with h | h
  · simp [h]
  · refine Nat.div_le_of_le_mul ?_
    have h1 := sum_raw_le (ringWindow c xs j)
    have h2 : (ringWindow c xs j).length ≤ c.ringN := by simp [ringWindow]
    calc _ ≤ _ := h1
      _ ≤ c.ringN * 4095 := Nat.mul_le_mul_right _ h2

/-- The state after the check of attempt `a` (R199). -/
def checkedAt (a : Nat) (g : Ring) (s : State) : State := s.setRing (some (g.checked a (ringMeanRaw s.cfg g)))

theorem attempts_zero (a : Nat) (ch : Channel) (g : Ring) (s : State) :
    attempts 0 a ch g s =
      if ringOk s.cfg g (ringMean s.cfg g) then (ringMeanRaw s.cfg g, (checkedAt a g s).setFsm .accepted)
      else (ringMeanRaw s.cfg g, (checkedAt a g s).setFsm .bestEffort) := rfl

/-- The ring after a failed attempt that another follows (R203). -/
def nextRing (a : Nat) (ch : Channel) (g : Ring) (s : State) : Ring :=
  replaceOldest s.cfg g (readChannel ch (checkedAt a g s)).1

theorem attempts_succ (n a : Nat) (ch : Channel) (g : Ring) (s : State) :
    attempts (n + 1) a ch g s =
      if ringOk s.cfg g (ringMean s.cfg g) then (ringMeanRaw s.cfg g, (checkedAt a g s).setFsm .accepted)
      else attempts n (a + 1) ch (nextRing a ch g s) ((readChannel ch (checkedAt a g s)).2.setRing
        (some ((nextRing a ch g s).checked a (ringMeanRaw s.cfg g)))) := rfl

theorem ringWindow_append (c : Config) (xs ys : List Raw) (j : Nat) (h : c.ringN + j ≤ xs.length) :
    ringWindow c (xs ++ ys) j = ringWindow c xs j := by
  unfold ringWindow
  rw [List.drop_append_of_le_length (by omega), List.take_append_of_le_length (by simp; omega)]

theorem windowMean_append (c : Config) (xs ys : List Raw) (j : Nat) (h : c.ringN + j ≤ xs.length) :
    windowMean c (xs ++ ys) j = windowMean c xs j := by rw [windowMean, windowMean, ringWindow_append c xs ys j h]

theorem windowOk_append (c : Config) (xs ys : List Raw) (j : Nat) (h : c.ringN + j ≤ xs.length) :
    windowOk c (xs ++ ys) j = windowOk c xs j := by
  rw [windowOk, windowOk, windowMean_append c xs ys j h, ringWindow_append c xs ys j h]

/-- The next reading slides the window. -/
theorem ringWindow_slide (c : Config) (xs : List Raw) (r : Raw) (j : Nat) (hN : 1 ≤ c.ringN) (h : xs.length = c.ringN + j) :
    ∃ w win, ringWindow c xs j = w :: win ∧ ringWindow c (xs ++ [r]) (j + 1) = win ++ [r] := by
  have hj : j < xs.length := by omega
  refine ⟨xs[j], xs.drop (j + 1), ?_, ?_⟩
  · rw [ringWindow, List.take_of_length_le (by simp; omega), List.drop_eq_getElem_cons hj]
  · rw [ringWindow, List.drop_append_of_le_length (by omega), List.take_of_length_le (by simp; omega)]

theorem ringMeanRaw_toNat (c : Config) (g : Ring) (xs : List Raw) (j : Nat) (h : holds c g (ringWindow c xs j)) :
    (ringMeanRaw c g).toNat = windowMean c xs j := by
  have h1 := windowMean_le c xs j
  rw [ringMeanRaw, h.check.1, BitVec.toNat_ofNat, Nat.mod_eq_of_lt (by omega)]

/-- The ring's registers `w` at the end: those of attempt `a`, holding the window of the readings `xs` after `j`
replacements (R34, R199). -/
def ringEnds (c : Config) (w : Option RingWork) (a j : Nat) (xs : List Raw) : Prop :=
  ∃ g, w = some (g.checked a (ringMeanRaw c g)) ∧ holds c g (ringWindow c xs j) ∧ g.oldest = j % c.ringN

/-- The attempts from attempt `a` on: `xs` the readings so far, the ring holding the window after `j` replacements. They
make the readings `rs`; every check but the last failed; the last passed, or it was the last allowed; the result is its
mean (R199, R203, R204). -/
theorem attempts_spec (n a : Nat) (ch : Channel) (g : Ring) (s : State) (xs : List Raw) (j : Nat) (hN : 1 ≤ s.cfg.ringN)
    (hlen : xs.length = s.cfg.ringN + j) (h : holds s.cfg g (ringWindow s.cfg xs j)) (ho : g.oldest = j % s.cfg.ringN) :
    ∃ rs : List Raw, rs.length ≤ n ∧
      (∀ i, j ≤ i → i < j + rs.length → windowOk s.cfg (xs ++ rs) i = false) ∧
      (attempts n a ch g s).1.toNat = windowMean s.cfg (xs ++ rs) (j + rs.length) ∧
      (if windowOk s.cfg (xs ++ rs) (j + rs.length) then (attempts n a ch g s).2.fsm = .accepted
        else rs.length = n ∧ (attempts n a ch g s).2.fsm = .bestEffort) ∧
      TouchRun (readings s.cfg ch rs) s (attempts n a ch g s).2 ∧ (attempts n a ch g s).2.pin.tCs = s.pin.tCs ∧
      (attempts n a ch g s).2.rdy = s.rdy ∧
      ringEnds s.cfg (attempts n a ch g s).2.work.ring (a + rs.length) (j + rs.length) (xs ++ rs) := by
  obtain ⟨hm, hok⟩ := h.check
  have hmean := ringMeanRaw_toNat s.cfg g xs j h
  have hset : ∀ f, TouchRun [] s ((checkedAt a g s).setFsm f) := fun f => .trans (.setWork s _) (.setFsm _ f)
  induction n generalizing a g s xs j with
  | zero =>
    refine ⟨[], by simp, fun i h1 h2 => absurd h2 (by simp; omega), ?_⟩
    rw [attempts_zero, hok, List.append_nil, List.length_nil, Nat.add_zero, Nat.add_zero]
    cases windowOk s.cfg xs j
    · exact ⟨hmean, ⟨rfl, rfl⟩, hset _, rfl, rfl, g, rfl, h, ho⟩
    · exact ⟨hmean, rfl, hset _, rfl, rfl, g, rfl, h, ho⟩
  | succ n ih =>
    rw [attempts_succ, hok]
    by_cases hw : windowOk s.cfg xs j = true
    · rw [if_pos hw]
      refine ⟨[], by simp, fun i h1 h2 => absurd h2 (by simp; omega), ?_⟩
      rw [List.append_nil, List.length_nil, Nat.add_zero, Nat.add_zero, if_pos hw]
      exact ⟨hmean, rfl, hset _, rfl, rfl, g, rfl, h, ho⟩
    · rw [if_neg hw]
      have hrun := exchange_run (channelCommand s.cfg ch) (checkedAt a g s)
      have hpin := exchange_pins (channelCommand s.cfg ch) (checkedAt a g s)
      have hrdy := exchange_rdy (channelCommand s.cfg ch) (checkedAt a g s)
      have hrc : readChannel ch (checkedAt a g s) = exchange (channelCommand s.cfg ch) (checkedAt a g s) := rfl
      unfold nextRing
      rw [hrc]
      have hfr : TouchRun [] s (checkedAt a g s) := .setWork s _
      generalize exchange (channelCommand s.cfg ch) (checkedAt a g s) = x at *
      generalize hg : replaceOldest s.cfg g x.1 = g' at *
      generalize hs' : x.2.setRing (some (g'.checked a (ringMeanRaw s.cfg g))) = s' at *
      have hrun' : TouchRun [] x.2 s' := hs' ▸ .setWork _ _
      have hcfg : s'.cfg = s.cfg := hrun'.frame.cfg.trans hrun.frame.cfg
      obtain ⟨w, win, hwin, hslide⟩ := ringWindow_slide s.cfg xs x.1 j hN hlen
      rw [hwin] at h
      have hnext := h.replace x.1
      rw [← hslide, hg] at hnext
      have hon : g'.oldest = (j + 1) % s.cfg.ringN := by rw [← hg, replaceOldest, ho, Nat.mod_add_mod]
      have ih' := ih (a + 1) g' s' (xs ++ [x.1]) (j + 1)
      rw [hcfg] at ih'
      obtain ⟨rs, r1, r2, r3, r4, r5, r6, r7, r8⟩ := ih' hN (by simp; omega) hnext hon hnext.check.1 hnext.check.2
        (ringMeanRaw_toNat s.cfg _ _ _ hnext) (fun f => .trans (.setWork _ _) (.setFsm _ f))
      have hnf : windowOk s.cfg xs j = false := by simpa using hw
      refine ⟨x.1 :: rs, by simp; omega, ?_, ?_, ?_, ?_, ?_, ?_, ?_⟩
      · intro i h1 h2
        rcases Nat.eq_or_lt_of_le h1 with h3 | h3
        · subst h3
          rw [windowOk_append _ _ _ _ (by omega)]
          exact hnf
        · have := r2 i (by omega) (by simp at h2; omega)
          simpa using this
      · rw [r3]; simp [Nat.add_assoc, Nat.add_comm 1]
      · simpa [Nat.add_assoc, Nat.add_comm 1] using r4
      · exact (hfr.trans (hrun.trans hrun')).trans r5
      · exact r6.trans ((congrArg (·.pin.tCs) hs'.symm).trans hpin.1)
      · exact r7.trans ((congrArg State.rdy hs'.symm).trans hrdy)
      · simpa [Nat.add_assoc, Nat.add_comm 1] using r8

/-! ### Denoise and the session -/

@[simp] theorem denoiseBegin_cfg (s : State) : (denoiseBegin s).cfg = s.cfg := rfl

theorem denoiseBegin_run (s : State) : TouchRun [] s (denoiseBegin s) := (TouchRun.setFsm s .sampling).trans (.setWork _ _)

/-- Denoise up to its return (R199): the readings it makes, and which check the verdict is of. -/
theorem denoiseRun_spec (ch : Channel) (s : State) (hN : 1 ≤ s.cfg.ringN) :
    ∃ xs : List Raw, IsDenoise s.cfg xs (denoiseRun ch s).1 ∧
      (denoiseRun ch s).2.fsm =
        (if windowOk s.cfg xs (xs.length - s.cfg.ringN) then Fsm.accepted else Fsm.bestEffort) ∧
      TouchRun (readings s.cfg ch xs) s (denoiseRun ch s).2 ∧ (denoiseRun ch s).2.pin.tCs = s.pin.tCs ∧
      (denoiseRun ch s).2.rdy = s.rdy ∧
      ringEnds s.cfg (denoiseRun ch s).2.work.ring (xs.length - s.cfg.ringN + 1) (xs.length - s.cfg.ringN) xs := by
  obtain ⟨f, f1, f2, f3, f4, f5, -⟩ := fillRing_spec s.cfg.ringN ch .empty (denoiseBegin s)
  have hrun := (denoiseBegin_run s).trans f3
  have hcfg := hrun.frame.cfg
  unfold denoiseRun
  generalize fillRing s.cfg.ringN ch .empty (denoiseBegin s) = a at *
  have hh : holds a.2.cfg a.1 (ringWindow a.2.cfg f 0) := by
    rw [hcfg, f2]
    refine ⟨by simp [Ring.empty, f1], hN, by simp [Ring.empty], ?_⟩
    simp [Ring.empty, ringWindow, ← f1]
  have key := attempts_spec (s.cfg.maxAttempts - 1) 1 ch a.1 a.2 f 0
  rw [hcfg] at key hh
  obtain ⟨rs, r1, r2, r3, r4, r5, r6, r7, r8⟩ := key hN (by omega) hh (by rw [f2]; simp [Ring.empty])
  have hl : (f ++ rs).length - s.cfg.ringN = rs.length := by simp; omega
  rw [Nat.zero_add] at r3 r4 r8
  refine ⟨f ++ rs, ⟨by simp; omega, by simp; omega, ?_, ?_, ?_⟩, ?_, ?_, r6.trans f4, r7.trans f5,
    ?_⟩
  · rw [hl]; exact fun i hi => r2 i (by omega) (by omega)
  · rw [hl]
    split at r4
    · rename_i hw; exact .inl hw
    · exact .inr (by simp; omega)
  · rw [hl, r3]
  · rw [hl]
    split at r4 <;> rename_i hw
    · rw [if_pos hw, r4]
    · rw [if_neg hw, r4.2]
  · have := hrun.trans r5
    simpa [readings] using this
  · rw [hl, Nat.add_comm]
    exact r8

/-- Denoise (R199), the sampler idle again and the ring dead. -/
theorem denoise_spec (ch : Channel) (s : State) (hN : 1 ≤ s.cfg.ringN) :
    ∃ xs : List Raw, IsDenoise s.cfg xs (denoise ch s).1 ∧ TouchRun (readings s.cfg ch xs) s (denoise ch s).2 ∧
      (denoise ch s).2.pin.tCs = s.pin.tCs ∧ (denoise ch s).2.rdy = s.rdy := by
  obtain ⟨xs, h1, -, h3, h4, h5, -⟩ := denoiseRun_spec ch s hN
  refine ⟨xs, h1, ?_, h4, h5⟩
  have : TouchRun (readings s.cfg ch xs ++ ([] ++ [])) s (denoise ch s).2 :=
    h3.trans (.trans (.setWork _ _) (.setFsm _ .idle))
  simpa only [List.append_nil] using this

/-- The session of a poll (R206, R210, R213): X, then Y, then power-down, then the second ready sample, under the touch
chip-select. -/
theorem pollSession_spec (s : State) (hN : 1 ≤ s.cfg.ringN) :
    ∃ (xs ys : List Raw) (r : Raw), IsDenoise s.cfg xs (pollSession s).1.1 ∧ IsDenoise s.cfg ys (pollSession s).1.2.1 ∧
      TouchRun ([.tchSel] ++ readings s.cfg .x xs ++ readings s.cfg .y ys ++
        [.tchXchg s.cfg.cmdTouchPd r, .tchReady (pollSession s).1.2.2, .tchDesel]) s (pollSession s).2 ∧
      (pollSession s).2.pin.tCs = some false ∧
      (∀ b rest, s.rdy = b :: rest → (pollSession s).1.2.2 = b ∧ (pollSession s).2.rdy = rest) := by
  have h0 : TouchRun ([.tchSel] ++ []) s ((tchSel s).setPollStage .sampleX) := (tchSel_run s).trans (.setWork _ _)
  have c0 : ((tchSel s).setPollStage .sampleX).cfg = s.cfg := h0.frame.cfg
  have k0 : ((tchSel s).setPollStage .sampleX).rdy = s.rdy := rfl
  unfold pollSession
  dsimp only
  generalize (tchSel s).setPollStage .sampleX = s0 at *
  obtain ⟨xs, x1, x2, -, x4⟩ := denoise_spec .x s0 (by rw [c0]; exact hN)
  rw [c0] at x1 x2
  generalize denoise .x s0 = x at *
  have g1 : TouchRun ([] ++ []) x.2 ((x.2.setPoll
      { rx := some x.1, ry := none, ox := none, oy := none, px := none, py := none }).setPollStage .sampleY) :=
    (TouchRun.setWork _ _).trans (.setWork _ _)
  have c1 : ((x.2.setPoll
      { rx := some x.1, ry := none, ox := none, oy := none, px := none, py := none }).setPollStage .sampleY).cfg = s.cfg :=
    x2.frame.cfg.trans c0
  have k1 : ((x.2.setPoll
      { rx := some x.1, ry := none, ox := none, oy := none, px := none, py := none }).setPollStage .sampleY).rdy = s.rdy :=
    x4.trans k0
  generalize (x.2.setPoll
      { rx := some x.1, ry := none, ox := none, oy := none, px := none, py := none }).setPollStage .sampleY = s1 at *
  obtain ⟨ys, y1, y2, -, y4⟩ := denoise_spec .y s1 (by rw [c1]; exact hN)
  rw [c1] at y1 y2
  generalize denoise .y s1 = y at *
  have g2 : TouchRun ([] ++ []) y.2 ((y.2.setPoll
      { rx := some x.1, ry := some y.1, ox := none, oy := none, px := none, py := none }).setPollStage .powerDown) :=
    (TouchRun.setWork _ _).trans (.setWork _ _)
  have c2 : (y.2.setPoll
      { rx := some x.1, ry := some y.1, ox := none, oy := none, px := none, py := none }).cfg = s.cfg :=
    y2.frame.cfg.trans c1
  have k2 : ((y.2.setPoll
      { rx := some x.1, ry := some y.1, ox := none, oy := none, px := none, py := none }).setPollStage .powerDown).rdy =
      s.rdy := y4.trans k1
  rw [c2]
  generalize (y.2.setPoll
      { rx := some x.1, ry := some y.1, ox := none, oy := none, px := none, py := none }).setPollStage .powerDown = s2 at *
  have g3 := exchange_run s.cfg.cmdTouchPd s2
  have k3 := exchange_rdy s.cfg.cmdTouchPd s2
  generalize exchange s.cfg.cmdTouchPd s2 = d at *
  have g4 : TouchRun [] d.2 (d.2.setPollStage .secondCheck) := .setWork _ _
  have k4 : (d.2.setPollStage .secondCheck).rdy = s.rdy := k3.trans k2
  generalize d.2.setPollStage .secondCheck = s3 at *
  have g5 := tchReadySample_run s3
  have k5 : ∀ b rest, s.rdy = b :: rest → (tchReadySample s3).1 = b ∧ (tchReadySample s3).2.rdy = rest := fun b rest h =>
    (tchReadySample_supplied s3 b rest (k4.trans h)).imp_right And.left
  generalize tchReadySample s3 = e at *
  have g6 := tchDesel_run e.2
  refine ⟨xs, ys, d.1, x1, y1, ?_, tchDesel_tCs _, k5⟩
  have := ((((((h0.trans x2).trans g1).trans y2).trans g2).trans g3).trans g4).trans (g5.trans g6)
  simpa using this

end Sys2Proof.Machine
end

