-- ==== Sys2Proof/Laws/Exec.lean ====
section
/-!
SUPPORT. What `exec` can do, family by family: issuing and refusing, the LCD instructions as a script of events
(`lcdScript`), the touch instructions as a `TouchRun`. Later proofs cite these and never unfold a meaning.
-/

namespace Sys2Proof.Machine

/-! ### Issue, refuse, complete (R260, R276, R283) -/

theorem issue_idle (s : State) (body : State → Out) (h : s.busy = false) : issue s body = body (s.setBusy true) := by
  simp [issue, h]

theorem issue_busy (s : State) (body : State → Out) (h : s.busy = true) : issue s body = .refused .busy := by
  simp [issue, h]

@[simp] theorem refuseIf_false (why : Refusal) (go : Out) : refuseIf false why go = go := rfl

@[simp] theorem refuseIf_true (why : Refusal) (go : Out) : refuseIf true why go = .refused why := rfl

theorem issue_next {s t : State} {body : State → Out} (h : issue s body = .next t) :
    s.busy = false ∧ body (s.setBusy true) = .next t := by
  cases hb : s.busy
  · rw [issue_idle s body hb] at h; exact ⟨rfl, h⟩
  · rw [issue_busy s body hb] at h; cases h

theorem refuseIf_next {bad : Bool} {why : Refusal} {go : Out} {t : State} (h : refuseIf bad why go = .next t) :
    bad = false ∧ go = .next t := by
  cases bad
  · exact ⟨rfl, h⟩
  · cases h

theorem complete_next {s t : State} {r : Result} (h : complete r s = .next t) : t = s.finish r := by
  cases h; rfl

theorem withBus_next {s t : State} {body : State → Out} (h : withBus s body = .next t) :
    s.busy = false ∧ s.lcdReady = true ∧ s.pin.lCs = some true ∧ body (s.setBusy true) = .next t := by
  obtain ⟨h1, h⟩ := issue_next h
  obtain ⟨h2, h⟩ := refuseIf_next h
  obtain ⟨h3, h⟩ := refuseIf_next h
  have h3' : ¬ s.pin.lCs ≠ some true := of_decide_eq_false h3
  exact ⟨h1, by simpa using h2, not_not.1 h3', h⟩

theorem withBus_ok {s : State} {body : State → Out} (h1 : s.busy = false) (h2 : s.lcdReady = true)
    (h3 : s.pin.lCs = some true) : withBus s body = body (s.setBusy true) := by
  simp [withBus, issue_idle _ _ h1, h2, h3]

@[simp] theorem finish_setBusy (s : State) (b : Bool) (r : Result) : (s.setBusy b).finish r = s.finish r := rfl

@[simp] theorem finish_setPollStage (s : State) (p : PollStage) (r : Result) : (s.setPollStage p).finish r = s.finish r := rfl

/-! ### The LCD instructions -/

theorem lcdEvent_setBusy (s : State) (b : Bool) (e : LcdEvent) : lcdEvent (s.setBusy b) e = (lcdEvent s e).setBusy b := by
  apply State.ext_fields <;> simp
  cases e <;> simp [lcdEvent, lcdDrive, writeLatched, latchValue, pulse, strobeDelivers]

theorem lcdEvents_setBusy (es : List LcdEvent) (s : State) (b : Bool) :
    lcdEvents es (s.setBusy b) = (lcdEvents es s).setBusy b := by
  induction es generalizing s with
  | nil => rfl
  | cons e es ih => rw [lcdEvents_cons, lcdEvents_cons, lcdEvent_setBusy, ih]

/-- The events of an instruction that drives the LCD bus, in order (R101, R131, R134, R136, R153, R160). -/
def lcdScript (s : State) : Instr → Option (List LcdEvent)
  | .lcdInit => some ((initHead s.cfg).flatten ++ initClear s.cfg ++ (initTail s.cfg).flatten ++ [.lcdDesel])
  | .lcdFlush r buf => some (flushEvents s.cfg r buf)
  | .btpPulse | .lcdRpt => some [.lcdRpt]
  | .btpWlb v => some [writeEvent s.pin.lDc v]
  | .lcdPix p => some [.lcdPix p]
  | i => (lcdFrameOf s.cfg i).map fun f => cmdFrame f.1 f.2

theorem finish_lcdReady (t : State) (b : Bool) (r : Result) :
    ((t.setLcdReady b).finish r) = (t.finish r).setLcdReady b := rfl

theorem setLcdReady_self (t : State) : t.setLcdReady t.lcdReady = t := rfl

theorem lcdFrame_next {code : Byte} {args : List Byte} {s t : State} (h : lcdFrame code args s = .next t) :
    t = (lcdEvents (cmdFrame code args) s).finish .nothing := by
  obtain ⟨-, -, -, h⟩ := withBus_next h
  rw [complete_next h, lcdEvents_setBusy, finish_setBusy]

/-- The callback returns, whatever else it does (R264, R283), and LCD.FLUSH with it; or it does not. -/
theorem signalDone_cases (s : State) :
    (s.cfg.callback ≠ .neverReturns ∧ signalDone s = .next ((lcdEvents [.flushDone] s).finish .nothing)) ∨
    (s.cfg.callback = .neverReturns ∧ signalDone s = .fault .callbackNeverReturns) := by
  unfold signalDone
  cases s.cfg.callback
  · exact .inl ⟨by decide, rfl⟩
  · exact .inl ⟨by decide, rfl⟩
  · exact .inr ⟨rfl, rfl⟩

theorem signalDone_next {s t : State} (h : signalDone s = .next t) :
    s.cfg.callback ≠ .neverReturns ∧ t = (lcdEvents [.flushDone] s).finish .nothing := by
  rcases signalDone_cases s with ⟨h1, h2⟩ | ⟨-, h2⟩ <;> rw [h2] at h
  · exact ⟨h1, (Host.Outcome.next.inj h).symm⟩
  · cases h

theorem signalDone_ok {s : State} (h : s.cfg.callback ≠ .neverReturns) :
    signalDone s = .next ((lcdEvents [.flushDone] s).finish .nothing) :=
  (signalDone_cases s).elim And.right fun h' => absurd h'.1 h

/-- The body of LCD.FLUSH once its refusals are past (R160). -/
theorem flush_body (r : Region) (buf : List Half) (s : State) (h : s.cfg.callback ≠ .neverReturns) :
    (if (clip s.cfg r).isEmpty then signalDone s else signalDone (flushStream r buf (clip s.cfg r) s)) =
      .next ((lcdEvents (flushEvents s.cfg r buf) s).finish .nothing) := by
  unfold flushEvents
  split <;> rename_i he
  · rw [signalDone_ok h, if_pos he]
  · obtain ⟨wk, hw⟩ := flushStream_eq r buf (clip s.cfg r) s
    rw [hw, signalDone_ok (by simpa using h), lcdEvents_setWork, State.finish_setWork, ← lcdEvents_append, if_neg he]
    simp only [List.append_assoc, List.cons_append, List.nil_append]

theorem execLcdFlush_eq (r : Region) (buf : List Half) (s : State) (h : s.busy = false) :
    execLcdFlush r buf s = refuseIf (!s.lcdReady) .notInitialised
      (if (clip s.cfg r).isEmpty then signalDone (s.setBusy true)
        else refuseIf (!bufferLongEnough r (clip s.cfg r) buf) .bufferTooShort
          (signalDone (flushStream r buf (clip s.cfg r) (s.setBusy true)))) := by
  unfold execLcdFlush
  rw [issue_idle _ _ h]
  rfl

theorem execLcdFlush_ok {r : Region} {buf : List Half} {s : State} (h1 : s.busy = false) (h2 : s.lcdReady = true)
    (h3 : s.cfg.callback ≠ .neverReturns)
    (h4 : (clip s.cfg r).isEmpty = true ∨ bufferLongEnough r (clip s.cfg r) buf = true) :
    execLcdFlush r buf s = .next ((lcdEvents (flushEvents s.cfg r buf) s).finish .nothing) := by
  have hb := flush_body r buf (s.setBusy true) h3
  rw [State.setBusy_cfg, lcdEvents_setBusy, finish_setBusy] at hb
  rw [execLcdFlush_eq r buf s h1, h2, Bool.not_true, refuseIf_false, ← hb]
  by_cases he : (clip s.cfg r).isEmpty = true
  · rw [if_pos he, if_pos he]
  · rw [if_neg he, if_neg he, h4.resolve_left he, Bool.not_true, refuseIf_false]

theorem execLcdFlush_next {r : Region} {buf : List Half} {s t : State} (h : execLcdFlush r buf s = .next t) :
    s.busy = false ∧ s.lcdReady = true ∧ s.cfg.callback ≠ .neverReturns ∧
      ((clip s.cfg r).isEmpty = true ∨ bufferLongEnough r (clip s.cfg r) buf = true) ∧
      t = (lcdEvents (flushEvents s.cfg r buf) s).finish .nothing := by
  have h1 := (issue_next h).1
  have g := h
  rw [execLcdFlush_eq r buf s h1] at g
  obtain ⟨h2, g⟩ := refuseIf_next g
  have h2' : s.lcdReady = true := by simpa using h2
  by_cases he : (clip s.cfg r).isEmpty = true
  · rw [if_pos he] at g
    have hc : s.cfg.callback ≠ .neverReturns := (signalDone_next g).1
    rw [execLcdFlush_ok h1 h2' hc (.inl he)] at h
    exact ⟨h1, h2', hc, .inl he, (Host.Outcome.next.inj h).symm⟩
  · rw [if_neg he] at g
    obtain ⟨h3, g⟩ := refuseIf_next g
    have h3' : bufferLongEnough r (clip s.cfg r) buf = true := by simpa using h3
    obtain ⟨wk, hw⟩ := flushStream_eq r buf (clip s.cfg r) (s.setBusy true)
    have hc := (signalDone_next g).1
    rw [hw, State.setWork_cfg, lcdEvents_cfg] at hc
    rw [execLcdFlush_ok h1 h2' hc (.inr h3')] at h
    exact ⟨h1, h2', hc, .inr h3', (Host.Outcome.next.inj h).symm⟩

theorem initSequence_script (s : State) :
    ∃ w, initSequence s =
      (lcdEvents ((initHead s.cfg).flatten ++ initClear s.cfg ++ (initTail s.cfg).flatten ++ [.lcdDesel]) s).setWork w := by
  obtain ⟨w1, h1⟩ := runSteps_eq 0 (initHead s.cfg) s
  have key : ∀ wk wl : Work,
      ∃ w, lcdEvent (runSteps 12 (initTail s.cfg) ((lcdEvents (initClear s.cfg)
          ((lcdEvents (initHead s.cfg).flatten s).setWork wk)).setWork wl)) .lcdDesel =
        (lcdEvents ((initHead s.cfg).flatten ++ initClear s.cfg ++ (initTail s.cfg).flatten ++ [.lcdDesel]) s).setWork w := by
    intro wk wl
    obtain ⟨w3, h3⟩ := runSteps_eq 12 (initTail s.cfg)
      ((lcdEvents (initClear s.cfg) ((lcdEvents (initHead s.cfg).flatten s).setWork wk)).setWork wl)
    refine ⟨w3, ?_⟩
    rw [h3, lcdEvents_setWork, lcdEvents_setWork, lcdEvents_setWork, State.setWork_setWork, State.setWork_setWork,
      lcdEvent_setWork, lcdEvents_one, ← lcdEvents_append, ← lcdEvents_append, ← lcdEvents_append]
    simp only [List.append_assoc]
  unfold initSequence
  simp only [h1, State.setLcd, State.setInitStep, State.setWork_setWork]
  split <;> exact key _ _

theorem finish_absorb (u : State) (b c : Bool) (w : Work) (r : Result) :
    (((u.setBusy b).setWork w).setLcdReady c).finish r = (u.setLcdReady c).finish r := rfl

theorem execLcdInit_ok {s : State} (h1 : s.busy = false) (h2 : s.lcdReady = false) :
    execLcdInit s = .next (((lcdEvents ((initHead s.cfg).flatten ++ initClear s.cfg ++ (initTail s.cfg).flatten ++
      [.lcdDesel]) s).setLcdReady true).finish .nothing) := by
  obtain ⟨w, hw⟩ := initSequence_script (s.setBusy true)
  unfold execLcdInit
  rw [issue_idle _ _ h1, State.setBusy_lcdReady, h2, refuseIf_false, hw, State.setBusy_cfg, lcdEvents_setBusy, complete,
    finish_absorb]

theorem execLcdInit_next {s t : State} (h : execLcdInit s = .next t) :
    s.busy = false ∧ s.lcdReady = false ∧
      t = ((lcdEvents ((initHead s.cfg).flatten ++ initClear s.cfg ++ (initTail s.cfg).flatten ++ [.lcdDesel])
        s).setLcdReady true).finish .nothing := by
  obtain ⟨h1, g⟩ := issue_next h
  obtain ⟨h2, -⟩ := refuseIf_next g
  rw [execLcdInit_ok h1 h2] at h
  exact ⟨h1, h2, (Host.Outcome.next.inj h).symm⟩

theorem lcdFrame_ok {code : Byte} {args : List Byte} {s : State} (h1 : s.busy = false) (h2 : s.lcdReady = true)
    (h3 : s.pin.lCs = some true) :
    lcdFrame code args s = .next ((lcdEvents (cmdFrame code args) s).finish .nothing) := by
  unfold lcdFrame
  rw [withBus_ok h1 h2 h3, complete, lcdEvents_setBusy, finish_setBusy]

theorem setLcdReady_lcdEvents (es : List LcdEvent) (s : State) :
    (lcdEvents es s).setLcdReady (s.lcdReady || false) = lcdEvents es s := by
  rw [Bool.or_false]
  conv_lhs => rw [← lcdEvents_lcdReady es s]
  exact setLcdReady_self _

theorem withBus_script {s t : State} {es : List LcdEvent}
    (h : withBus s (fun s => complete .nothing (lcdEvents es s)) = .next t) :
    t = ((lcdEvents es s).setLcdReady (s.lcdReady || false)).finish .nothing := by
  obtain ⟨-, -, -, h⟩ := withBus_next h
  rw [setLcdReady_lcdEvents, complete_next h, lcdEvents_setBusy, finish_setBusy]

/-- A strobe that repeats, issued as BTP.PULSE or as a frame (R103, R131). -/
theorem strobe_next {s t : State}
    (h : withBus s (fun s => refuseIf s.latch.isNone .latchUnknown (complete .nothing (lcdEvent s .lcdRpt))) = .next t) :
    t = ((lcdEvents [.lcdRpt] s).setLcdReady (s.lcdReady || false)).finish .nothing := by
  obtain ⟨-, -, -, h⟩ := withBus_next h
  obtain ⟨-, h⟩ := refuseIf_next h
  rw [setLcdReady_lcdEvents, complete_next h, lcdEvent_setBusy, finish_setBusy, lcdEvents_one]

theorem execBtpWlb_next {v : Half} {s t : State} (h : execBtpWlb v s = .next t) :
    t = ((lcdEvents [writeEvent s.pin.lDc v] s).setLcdReady (s.lcdReady || false)).finish .nothing := by
  obtain ⟨-, -, -, h⟩ := withBus_next h
  rw [setLcdReady_lcdEvents, complete_next h, lcdEvent_setBusy, finish_setBusy, lcdEvents_one, State.setBusy_pin]

theorem exec_lcd_other {i : Instr} {s t : State} {es : List LcdEvent} (hi : i ≠ .lcdInit)
    (hs : lcdScript s i = some es) (h : exec i s = .next t) :
    t = ((lcdEvents es s).setLcdReady (s.lcdReady || false)).finish .nothing := by
  cases i <;> try cases hs
  case lcdInit => exact absurd rfl hi
  case lcdFlush r buf =>
    rw [setLcdReady_lcdEvents]
    exact (execLcdFlush_next h).2.2.2.2
  case lcdRpt => exact strobe_next h
  case btpPulse => exact strobe_next h
  case btpWlb v => exact execBtpWlb_next h
  all_goals exact withBus_script h

/-- Every LCD instruction that completes ran its script (R136, R153, R160). -/
theorem exec_lcd {i : Instr} {s t : State} {es : List LcdEvent} (hs : lcdScript s i = some es) (h : exec i s = .next t) :
    t = ((lcdEvents es s).setLcdReady (s.lcdReady || decide (i = .lcdInit))).finish .nothing := by
  by_cases hi : i = .lcdInit
  · subst hi
    cases hs
    obtain ⟨-, -, h⟩ := execLcdInit_next h
    rw [decide_eq_true rfl, Bool.or_true]
    exact h
  · rw [decide_eq_false hi]
    exact exec_lcd_other hi hs h

theorem writeEvent_cases (dc : Option Bool) (v : Half) : writeEvent dc v = .lcdPix v ∨ writeEvent dc v = .lcdWrite dc v := by
  unfold writeEvent; split <;> simp

theorem writeEvent_busWrite (dc : Option Bool) (v : Half) : isBusWrite (writeEvent dc v) = true := by
  rcases writeEvent_cases dc v with h | h <;> rw [h] <;> rfl

/-- The scripts, one shape at a time. -/
theorem lcdScript_cases {s : State} {i : Instr} {es : List LcdEvent} (h : lcdScript s i = some es) :
    (i = .lcdInit ∧ es = (initHead s.cfg).flatten ++ initClear s.cfg ++ (initTail s.cfg).flatten ++ [.lcdDesel]) ∨
    (∃ r buf, i = .lcdFlush r buf ∧ es = flushEvents s.cfg r buf) ∨ (∃ p, i = .lcdPix p ∧ es = [.lcdPix p]) ∨
    ((i = .lcdRpt ∨ i = .btpPulse) ∧ es = [.lcdRpt]) ∨ (∃ v, i = .btpWlb v ∧ es = [writeEvent s.pin.lDc v]) ∨
    ∃ f, lcdFrameOf s.cfg i = some f ∧ es = cmdFrame f.1 f.2 ∧ isBusInstr i = true := by
  cases i
  case lcdInit => exact .inl ⟨rfl, (Option.some.inj h).symm⟩
  case lcdFlush r buf => exact .inr (.inl ⟨r, buf, rfl, (Option.some.inj h).symm⟩)
  case lcdPix p => exact .inr (.inr (.inl ⟨p, rfl, (Option.some.inj h).symm⟩))
  case lcdRpt => exact .inr (.inr (.inr (.inl ⟨.inl rfl, (Option.some.inj h).symm⟩)))
  case btpPulse => exact .inr (.inr (.inr (.inl ⟨.inr rfl, (Option.some.inj h).symm⟩)))
  case btpWlb v => exact .inr (.inr (.inr (.inr (.inl ⟨v, rfl, (Option.some.inj h).symm⟩))))
  all_goals first
    | cases h; done
    | exact .inr (.inr (.inr (.inr (.inr ⟨_, rfl, (Option.some.inj h).symm, rfl⟩))))

/-- The script of a bus instruction is bus writes and nothing else (R130). -/
theorem lcdScript_bus {s : State} {i : Instr} {es : List LcdEvent} (h : lcdScript s i = some es)
    (hi : isBusInstr i = true) : es.all isBusWrite = true := by
  rcases lcdScript_cases h with ⟨rfl, -⟩ | ⟨r, buf, rfl, -⟩ | ⟨p, rfl, rfl⟩ | ⟨-, rfl⟩ | ⟨v, rfl, rfl⟩ | ⟨f, -, rfl, -⟩
  · cases hi
  · cases hi
  · rfl
  · rfl
  · rw [List.all_cons, writeEvent_busWrite]; rfl
  · simp [cmdFrame, isBusWrite]

/-- A frame row is its frame on the bus (R101, R104, R106). -/
theorem exec_frame {i : Instr} {s : State} {code : Byte} {args : List Byte} (h : lcdFrameOf s.cfg i = some (code, args)) :
    exec i s = lcdFrame code args s := by
  cases i <;> first
    | cases h; done
    | (obtain ⟨rfl, rfl⟩ := Prod.mk.inj (Option.some.inj h); rfl)

theorem lcdFrameOf_command {c : Config} {i : Instr} {f : Byte × List Byte} (h : lcdFrameOf c i = some f) :
    f.1 ∈ c.lcdCommands := by
  cases i <;> first | cases h; done | (obtain rfl := Option.some.inj h; simp [Config.lcdCommands])

/-! ### The touch instructions -/

theorem TouchRun.setBusy {es : List TchEvent} {s u : State} {b : Bool} (h : TouchRun es (s.setBusy b) u) :
    TouchRun es s (u.setBusy s.busy) where
  frame := by
    obtain ⟨f1, f2, f3, f4, f5, f6, f7, f8, f9, f10, f11, f12, f13⟩ := h.frame
    exact ⟨f1, f2, f3, f4, f5, f6, rfl, f8, f9, f10, f11, f12, f13⟩
  traceF := h.traceF
  traceP := h.traceP
  low := h.low

/-- The state after a touch instruction is the touch part of the state before (R190). -/
theorem TouchRun.part {es : List TchEvent} {s u : State} (h : TouchRun es s u) (p : Bool) (r : Result) :
    (u.setPressed p).finish r = { touchPart s ((u.setPressed p).finish r) with prevPressed := p } := by
  obtain ⟨f1, f2, f3, f4, f5, f6, f7, f8, f9, f10, f11, f12, f13⟩ := h.frame
  apply State.ext_fields <;> simp [touchPart, f1, f2, f3, f5, f6, f8, f9, f10, f12]
  exact f13

theorem setPressed_self {s u : State} (h : u.prevPressed = s.prevPressed) : u.setPressed s.prevPressed = u := by
  rw [← h]; rfl

/-- Bracketed operations (R214): the frame, the traces and the lines of the whole, from those of the body. -/
theorem bracketed_spec {body : State → Raw × State} {s : State} (h1 : s.busy = false) (h2 : s.tchReady = true)
    {es : List TchEvent} (hb : TouchRun es (tchSel (s.setBusy true)) (body (tchSel (s.setBusy true))).2) :
    ∃ u, TouchRun ([.tchSel] ++ es ++ [.tchDesel]) s u ∧ u.pin.tCs = some false ∧
      u.tdi = (body (tchSel (s.setBusy true))).2.tdi ∧
      bracketed body s = .next ((u.setPressed s.prevPressed).finish (.raw (body (tchSel (s.setBusy true))).1)) := by
  have hrun := (((tchSel_run (s.setBusy true)).trans hb).trans (tchDesel_run _)).setBusy
  refine ⟨_, hrun, rfl, rfl, ?_⟩
  rw [setPressed_self hrun.frame.prevPressed, finish_setBusy]
  unfold bracketed
  rw [issue_idle _ _ h1, State.setBusy_tchReady, h2]
  rfl

theorem bracketed_next {body : State → Raw × State} {s t : State} (h : bracketed body s = .next t) :
    s.busy = false ∧ s.tchReady = true := by
  obtain ⟨h1, h⟩ := issue_next h
  obtain ⟨h2, -⟩ := refuseIf_next h
  exact ⟨h1, by simpa using h2⟩

theorem execTchReadch_ok (ch : Channel) {s : State} (h1 : s.busy = false) (h2 : s.tchReady = true) :
    ∃ r u, TouchRun [.tchSel, .tchXchg (channelCommand s.cfg ch) r, .tchDesel] s u ∧ u.pin.tCs = some false ∧
      u.pin.tClk = some false ∧ u.pin.tDo = some false ∧
      execTchReadch ch s = .next ((u.setPressed s.prevPressed).finish (.raw r)) ∧
      ∀ r' rest, s.cfg.respSkip ≤ 4 → s.tdi = responseBits r' ++ rest → r = r' ∧ u.tdi = rest := by
  have hx := exchange_run (channelCommand s.cfg ch) (tchSel (s.setBusy true))
  have hp := exchange_pins (channelCommand s.cfg ch) (tchSel (s.setBusy true))
  have hs := exchange_supplied (channelCommand s.cfg ch) (tchSel (s.setBusy true))
  have he : execTchReadch ch s =
      complete (.raw (exchange (channelCommand s.cfg ch) (tchSel (s.setBusy true))).1)
        (tchDesel (exchange (channelCommand s.cfg ch) (tchSel (s.setBusy true))).2) := by
    unfold execTchReadch bracketed
    rw [issue_idle _ _ h1, State.setBusy_tchReady, h2]
    rfl
  rw [he]
  generalize exchange (channelCommand s.cfg ch) (tchSel (s.setBusy true)) = a at *
  have hrun := (((tchSel_run (s.setBusy true)).trans hx).trans (tchDesel_run _)).setBusy
  refine ⟨a.1, (tchDesel a.2).setBusy s.busy, hrun, rfl, hp.2.1, hp.2.2, ?_, ?_⟩
  · rw [setPressed_self hrun.frame.prevPressed, finish_setBusy]
    rfl
  · intro r' rest hr ht
    exact (hs r' rest hr ht).imp_right And.left

theorem execTchDenoise_ok (ch : Channel) {s : State} (h1 : s.busy = false) (h2 : s.tchReady = true)
    (hN : 1 ≤ s.cfg.ringN) :
    ∃ xs v u, IsDenoise s.cfg xs v ∧ TouchRun ([.tchSel] ++ readings s.cfg ch xs ++ [.tchDesel]) s u ∧
      u.pin.tCs = some false ∧ execTchDenoise ch s = .next ((u.setPressed s.prevPressed).finish (.raw v)) := by
  obtain ⟨xs, x1, x2, -, -⟩ := denoise_spec ch (tchSel (s.setBusy true)) hN
  obtain ⟨u, u1, u2, -, u4⟩ := bracketed_spec h1 h2 x2
  exact ⟨xs, _, u, x1, u1, u2, u4⟩

end Sys2Proof.Machine
end

