-- ==== Sys2Proof/Laws/Session.lean ====
section
/-!
SUPPORT. Touch work for every configuration, legal or not: its level-F events send only the three bytes of R111, its
level-P events are ones a session may hold, and the pins are those its level-P events drive (R38, R118, R213).
-/

namespace Sys2Proof.Machine

/-- A sample of an input line: drives nothing (R37). -/
def sampleEvent : EventP → Bool
  | .get _ _ => true
  | .set _ _ | .setData _ | .spin _ | .sleepMs _ | .config | .callback => false

/-- The level-P events of an exchange or a ready sample: no chip-select, no LCD line (R190, R193, R206). -/
def sessionEvent : EventP → Bool
  | .get _ _ | .spin _ | .set .tClk _ | .set .tDo _ => true
  | .set .lRst _ | .set .lCs _ | .set .lDc _ | .set .lWr _ | .set .lLe _ | .set .tCs _ => false
  | .setData _ | .sleepMs _ | .config | .callback => false

/-- Touch work from `s` to `t` whose level-P events all satisfy `ok`. -/
structure Session (ok : EventP → Bool) (s t : State) : Prop where
  events : ∃ es, TouchRun es s t ∧ ∀ code r, TchEvent.tchXchg code r ∈ es → code ∈ s.cfg.touchCommands
  pins : ∃ ps, t.traceP = s.traceP ++ ps ∧ t.pin = ps.foldl Pins.apply s.pin ∧ ps.all ok = true

variable {ok : EventP → Bool}

theorem Session.refl (s : State) : Session ok s s := ⟨⟨[], .refl s, by simp⟩, [], by simp, rfl, rfl⟩

theorem Session.trans {s t u : State} (h : Session ok s t) (g : Session ok t u) : Session ok s u := by
  obtain ⟨es, h1, h2⟩ := h.events
  obtain ⟨fs, g1, g2⟩ := g.events
  obtain ⟨ps, h3, h4, h5⟩ := h.pins
  obtain ⟨qs, g3, g4, g5⟩ := g.pins
  rw [h1.frame.cfg] at g2
  refine ⟨⟨es ++ fs, h1.trans g1, fun code r hm => ?_⟩, ps ++ qs, ?_, ?_, ?_⟩
  · exact (List.mem_append.1 hm).elim (h2 code r) (g2 code r)
  · rw [g3, h3, List.append_assoc]
  · rw [g4, h4, List.foldl_append]
  · rw [List.all_append, h5, g5]; rfl

theorem Session.setWork (s : State) (w : Work) : Session ok s (s.setWork w) :=
  ⟨⟨[], .setWork s w, by simp⟩, [], by simp, rfl, rfl⟩

theorem Session.setFsm (s : State) (f : Fsm) : Session ok s (s.setFsm f) :=
  ⟨⟨[], .setFsm s f, by simp⟩, [], by simp, rfl, rfl⟩

/-- Samples are session events. -/
theorem Session.loud {s t : State} (h : Session sampleEvent s t) : Session sessionEvent s t := by
  obtain ⟨ps, h3, h4, h5⟩ := h.pins
  refine ⟨h.events, ps, h3, h4, ?_⟩
  rw [List.all_eq_true] at h5 ⊢
  intro e he
  have := h5 e he
  cases e <;> first | rfl | cases this

theorem Session.frame {s t : State} (h : Session ok s t) : TouchFrame s t :=
  let ⟨_, h1, _⟩ := h.events
  h1.frame

theorem commandPhase_pinsRun (n : Nat) (sr : Byte) (sent : Nat) (s : State) :
    ∃ ps, (commandPhase n sr sent s).traceP = s.traceP ++ ps ∧ (commandPhase n sr sent s).pin = ps.foldl Pins.apply s.pin ∧
      ps.all sessionEvent = true := by
  induction n generalizing sr sent s with
  | zero => exact ⟨[], by simp [commandPhase], rfl, rfl⟩
  | succ n ih =>
    rw [commandPhase]
    obtain ⟨ps, h1, h2, h3⟩ := ih (sr <<< 1) (sent + 1)
      ((s.emitP (commandBit sr.msb)).setXchg (some (commandWork (sr <<< 1) (sent + 1))))
    refine ⟨commandBit sr.msb ++ ps, ?_, ?_, ?_⟩
    · rw [h1, State.setXchg_traceP, State.emitP_traceP, List.append_assoc]
    · rw [h2, State.setXchg_pin, State.emitP_pin, List.foldl_append]
    · rw [List.all_append, h3]; rfl

theorem responsePhase_pinsRun (n k : Nat) (r : Raw) (s : State) :
    ∃ ps, (responsePhase n k r s).2.traceP = s.traceP ++ ps ∧ (responsePhase n k r s).2.pin = ps.foldl Pins.apply s.pin ∧
      ps.all sessionEvent = true := by
  induction n generalizing k r s with
  | zero => exact ⟨[], by simp [responsePhase], rfl, rfl⟩
  | succ n ih =>
    rw [responsePhase_succ]
    split
    · obtain ⟨ps, h1, h2, h3⟩ := ih (k + 1) (shiftIn r (sampleTdi (afterClock k r s)).1) (afterSample k r s)
      refine ⟨responseClock ++ ([.get .tDi (sampleTdi (afterClock k r s)).1] ++ ps), ?_, ?_, ?_⟩
      · rw [h1, afterSample, State.setXchg_traceP, State.emitP_traceP, sampleTdi_traceP, afterClock, State.emitP_traceP, State.setXchg_traceP,
          List.append_assoc, List.append_assoc]
      · rw [h2, afterSample, State.setXchg_pin, State.emitP_pin, sampleTdi_pin, afterClock, State.emitP_pin, State.setXchg_pin, List.foldl_append,
          List.foldl_append]
      · rw [List.all_append, List.all_append, h3]; rfl
    · obtain ⟨ps, h1, h2, h3⟩ := ih (k + 1) r (afterClock k r s)
      refine ⟨responseClock ++ ps, ?_, ?_, ?_⟩
      · rw [h1, afterClock, State.emitP_traceP, State.setXchg_traceP, List.append_assoc]
      · rw [h2, afterClock, State.emitP_pin, State.setXchg_pin, List.foldl_append]
      · rw [List.all_append, h3]; rfl

/-- One exchange is session work, if its byte is one of the three. -/
theorem exchange_session (c : Byte) (s : State) (hc : c ∈ s.cfg.touchCommands) : Session sessionEvent s (exchange c s).2 where
  events := ⟨_, exchange_run c s, by
    intro code r hm
    rw [List.mem_singleton] at hm
    cases hm
    exact hc⟩
  pins := by
    obtain ⟨ps, h1, h2, h3⟩ := commandPhase_pinsRun 8 c 0 (begun c s)
    obtain ⟨qs, g1, g2, g3⟩ := responsePhase_pinsRun 16 1 0#12 (commanded c s)
    rw [exchange_eq]
    refine ⟨ps ++ ([.set .tDo false] ++ qs), ?_, ?_, ?_⟩
    · rw [State.emitF_traceP, State.setXchg_traceP, g1, commanded, State.setXchg_traceP, State.emitP_traceP, h1, begun,
        State.setXchg_traceP, List.append_assoc, List.append_assoc]
    · rw [State.emitF_pin, State.setXchg_pin, g2, commanded, State.setXchg_pin, State.emitP_pin, h2, begun,
        State.setXchg_pin, List.foldl_append, List.foldl_append]
    · rw [List.all_append, List.all_append, h3, g3]; rfl

theorem channelCommand_mem (c : Config) (ch : Channel) : channelCommand c ch ∈ c.touchCommands := by
  cases ch <;> simp [channelCommand, Config.touchCommands]

theorem readChannel_session (ch : Channel) (s : State) : Session sessionEvent s (readChannel ch s).2 :=
  exchange_session _ s (channelCommand_mem s.cfg ch)

/-- A ready sample samples and nothing else. -/
theorem tchReadySample_session (s : State) : Session sampleEvent s (tchReadySample s).2 where
  events := ⟨_, tchReadySample_run s, by simp⟩
  pins := ⟨[.get .tRdy (tchReadySample s).1], by simp [tchReadySample], by simp [tchReadySample, Pins.apply], rfl⟩

theorem fillRing_session (n : Nat) (ch : Channel) (g : Ring) (s : State) :
    Session sessionEvent s (fillRing n ch g s).2 := by
  induction n generalizing g s with
  | zero => exact .refl s
  | succ n ih => exact ((readChannel_session ch s).trans (.setWork _ _)).trans (ih _ _)

theorem attempts_session (n a : Nat) (ch : Channel) (g : Ring) (s : State) :
    Session sessionEvent s (attempts n a ch g s).2 := by
  have hset : ∀ f, Session sessionEvent s ((checkedAt a g s).setFsm f) := fun f => .trans (.setWork s _) (.setFsm _ f)
  induction n generalizing a g s with
  | zero => rw [attempts_zero]; split <;> exact hset _
  | succ n ih =>
    rw [attempts_succ]
    split
    · exact hset _
    · refine .trans (.trans (.setWork s _) (.trans (readChannel_session ch _) (.setWork _ _))) (ih _ _ _ fun f => ?_)
      exact .trans (.setWork _ _) (.setFsm _ f)

theorem denoise_session (ch : Channel) (s : State) : Session sessionEvent s (denoise ch s).2 :=
  (((((Session.setFsm s .sampling).trans (.setWork _ _)).trans (fillRing_session _ ch _ _)).trans (attempts_session _ _ ch _ _)).trans
    (.setWork _ _)).trans (.setFsm _ _)

/-- The session of a poll between its two chip-select events. -/
theorem pollSession_session (s : State) : ∃ u, Session sessionEvent (tchSel s) u ∧ (pollSession s).2 = tchDesel u := by
  unfold pollSession
  dsimp only
  have h0 : Session sessionEvent (tchSel s) ((tchSel s).setPollStage .sampleX) := .setWork _ _
  generalize (tchSel s).setPollStage .sampleX = s0 at *
  have h1 := denoise_session .x s0
  generalize denoise .x s0 = x at *
  have h2 : Session sessionEvent x.2 ((x.2.setPoll
      { rx := some x.1, ry := none, ox := none, oy := none, px := none, py := none }).setPollStage .sampleY) :=
    (Session.setWork _ _).trans (.setWork _ _)
  generalize (x.2.setPoll
      { rx := some x.1, ry := none, ox := none, oy := none, px := none, py := none }).setPollStage .sampleY = s1 at *
  have h3 := denoise_session .y s1
  generalize denoise .y s1 = y at *
  have h4 : Session sessionEvent y.2 ((y.2.setPoll
      { rx := some x.1, ry := some y.1, ox := none, oy := none, px := none, py := none }).setPollStage .powerDown) :=
    (Session.setWork _ _).trans (.setWork _ _)
  have h5 := exchange_session y.2.cfg.cmdTouchPd ((y.2.setPoll
      { rx := some x.1, ry := some y.1, ox := none, oy := none, px := none, py := none }).setPollStage .powerDown)
    (by simp [Config.touchCommands])
  have hcfg : (y.2.setPoll
      { rx := some x.1, ry := some y.1, ox := none, oy := none, px := none, py := none }).cfg = y.2.cfg := rfl
  rw [hcfg]
  generalize (y.2.setPoll
      { rx := some x.1, ry := some y.1, ox := none, oy := none, px := none, py := none }).setPollStage .powerDown = s2 at *
  generalize exchange y.2.cfg.cmdTouchPd s2 = d at *
  have h6 : Session sessionEvent d.2 (d.2.setPollStage .secondCheck) := .setWork _ _
  generalize d.2.setPollStage .secondCheck = s3 at *
  have h7 := (tchReadySample_session s3).loud
  exact ⟨_, ((((((h0.trans h1).trans h2).trans h3).trans h4).trans h5).trans h6).trans h7, rfl⟩

end Sys2Proof.Machine
end

