-- ==== Sys2Proof/Laws/Cases.lean ====
section
/-!
SUPPORT. Everything an instruction that completes can have done: it drives the LCD bus (`exec_lcd`), or it is a touch
instruction (`exec_touch`), TCH.INIT, or one of the four that emit nothing.
-/

namespace Sys2Proof.Machine

/-- The shape of a touch instruction: ready samples, then at most one session, under a chip-select it asserts itself or
finds asserted (R206, R214; log entry 7). -/
def TouchShape (s u : State) : Prop :=
  Session sampleEvent s u ∨
  (∃ a b, Session sampleEvent s a ∧ Session sessionEvent (tchSel a) b ∧ u = tchDesel b) ∨
  (s.pin.tCs = some true ∧ Session sessionEvent s u)

theorem bracketed_shape {body : State → Raw × State} {s t : State}
    (hb : ∀ a : State, a.cfg = s.cfg → Session sessionEvent a (body a).2) (h : bracketed body s = .next t) :
    s.busy = false ∧ s.tchReady = true ∧
      ∃ u r, t = (u.setPressed s.prevPressed).finish r ∧ TouchShape (s.setBusy true) u := by
  obtain ⟨h1, h⟩ := issue_next h
  obtain ⟨h2, h⟩ := refuseIf_next h
  have hs := hb (tchSel (s.setBusy true)) rfl
  have hp : (tchDesel (body (tchSel (s.setBusy true))).2).prevPressed = s.prevPressed := hs.frame.prevPressed
  have hx := complete_next h
  rw [← setPressed_self hp] at hx
  exact ⟨h1, by simpa using h2, _, _, hx, .inr (.inl ⟨_, _, .refl _, hs, rfl⟩)⟩

theorem touchFrame_shape {code : Byte} {rep : Raw → Result} {s t : State} (hc : code ∈ s.cfg.touchCommands)
    (h : touchFrame code rep s = .next t) :
    s.busy = false ∧ s.tchReady = true ∧
      ∃ u r, t = (u.setPressed s.prevPressed).finish r ∧ TouchShape (s.setBusy true) u := by
  obtain ⟨h1, h⟩ := issue_next h
  obtain ⟨h2, h⟩ := refuseIf_next h
  refine ⟨h1, by simpa using h2, ?_⟩
  split at h
  · rename_i hcs
    have hs := exchange_session code (s.setBusy true) hc
    have hp : (exchange code (s.setBusy true)).2.prevPressed = s.prevPressed := hs.frame.prevPressed
    have hx := complete_next h
    rw [← setPressed_self hp] at hx
    exact ⟨_, _, hx, .inr (.inr ⟨hcs, hs⟩)⟩
  · have hs := exchange_session code (tchSel (s.setBusy true)) hc
    have hp : (tchDesel (exchange code (tchSel (s.setBusy true))).2).prevPressed = s.prevPressed := hs.frame.prevPressed
    have hx := complete_next h
    rw [← setPressed_self hp] at hx
    exact ⟨_, _, hx, .inr (.inl ⟨_, _, .refl _, hs, rfl⟩)⟩

theorem finish_setPressed_setPollStage (s : State) (p : PollStage) (b : Bool) (r : Result) :
    ((s.setPollStage p).setPressed b).finish r = (s.setPressed b).finish r := rfl

theorem pollPressed_next {rx ry : Raw} {s t : State} (h : pollPressed rx ry s = .next t) :
    ∃ r, t = (s.setPressed true).finish r := by
  have hx := complete_next h
  refine ⟨t.result, ?_⟩
  subst hx
  rfl

theorem execTchPoll_shape {s t : State} (h : execTchPoll s = .next t) :
    s.busy = false ∧ s.tchReady = true ∧
      ∃ u p r, t = (u.setPressed p).finish r ∧ TouchShape (s.setBusy true) u := by
  obtain ⟨h1, h⟩ := issue_next h
  obtain ⟨h2, h⟩ := refuseIf_next h
  refine ⟨h1, by simpa using h2, ?_⟩
  have hr := (Session.setWork (ok := sampleEvent) (s.setBusy true)
    { (s.setBusy true).work with pollStage := some .firstCheck }).trans (tchReadySample_session _)
  change Session sampleEvent (s.setBusy true) (tchReadySample ((s.setBusy true).setPollStage .firstCheck)).2 at hr
  generalize tchReadySample ((s.setBusy true).setPollStage .firstCheck) = b at *
  dsimp only at h
  split at h
  · obtain ⟨u, hu, hd⟩ := pollSession_session b.2
    generalize pollSession b.2 = a at *
    split at h
    · obtain ⟨r, hx⟩ := pollPressed_next h
      rw [finish_setPressed_setPollStage] at hx
      exact ⟨a.2, true, r, hx, .inr (.inl ⟨_, _, hr, hu, hd⟩)⟩
    · have hx := complete_next h
      exact ⟨a.2, false, _, hx, .inr (.inl ⟨_, _, hr, hu, hd⟩)⟩
  · have hx := complete_next h
    exact ⟨b.2, false, _, hx, .inl hr⟩

/-- Every touch instruction that completes (R190, R196, R198, R206, R214). -/
theorem exec_touch {i : Instr} {s t : State} (hi : asksEnvironment i = true) (h : exec i s = .next t) :
    s.busy = false ∧ s.tchReady = true ∧
      ∃ u p r, t = (u.setPressed p).finish r ∧ (i ≠ .tchPoll → p = s.prevPressed) ∧ TouchShape (s.setBusy true) u := by
  have wrap : (s.busy = false ∧ s.tchReady = true ∧
      ∃ u r, t = (u.setPressed s.prevPressed).finish r ∧ TouchShape (s.setBusy true) u) →
      s.busy = false ∧ s.tchReady = true ∧
      ∃ u p r, t = (u.setPressed p).finish r ∧ (i ≠ .tchPoll → p = s.prevPressed) ∧ TouchShape (s.setBusy true) u :=
    fun ⟨a, b, u, r, c, d⟩ => ⟨a, b, u, _, r, c, fun _ => rfl, d⟩
  cases i <;> try cases hi
  case tchReadch ch => exact wrap (bracketed_shape (fun a _ => readChannel_session ch a) h)
  case tchDenoise ch => exact wrap (bracketed_shape (fun a _ => denoise_session ch a) h)
  case tchPoll =>
    obtain ⟨a, b, u, p, r, c, d⟩ := execTchPoll_shape h
    exact ⟨a, b, u, p, r, c, fun hn => absurd rfl hn, d⟩
  case cmdTouchX =>
    exact wrap (touchFrame_shape (code := s.cfg.cmdTouchX) (rep := .raw) (by simp [Config.touchCommands]) h)
  case cmdTouchY =>
    exact wrap (touchFrame_shape (code := s.cfg.cmdTouchY) (rep := .raw) (by simp [Config.touchCommands]) h)
  case cmdTouchPd =>
    exact wrap (touchFrame_shape (code := s.cfg.cmdTouchPd) (rep := fun _ => .nothing) (by simp [Config.touchCommands]) h)

theorem execTchInit_next {x y : Nat} {f : Byte} {s t : State} (h : execTchInit x y f s = .next t) :
    s.tchReady = false ∧ dimOk x = true ∧ dimOk y = true ∧
      t = ((((((tchSetup s).setTdim { x := x, y := y }).setOri (oriOf f)).setCal (defaultCal x y)).setPressed
        false).setTchReady true).finish .nothing := by
  obtain ⟨-, h⟩ := issue_next h
  obtain ⟨h1, h⟩ := refuseIf_next h
  obtain ⟨h2, h⟩ := refuseIf_next h
  simp only [Bool.not_eq_false', Bool.and_eq_true] at h2
  exact ⟨h1, h2.1, h2.2, complete_next h⟩

theorem execMapCalibrate_next {a b c d : Nat} {m : Half} {s t : State} (h : execMapCalibrate a b c d m s = .next t) :
    t = (s.setCal (calibration a b c d m.toNat s.tdim)).finish .nothing := by
  obtain ⟨-, h⟩ := issue_next h
  obtain ⟨-, h⟩ := refuseIf_next h
  obtain ⟨-, h⟩ := refuseIf_next h
  obtain ⟨-, h⟩ := refuseIf_next h
  exact complete_next h

/-- An instruction that completes without an event and without a register written, its result apart (R230, R263). -/
def isPure : Instr → Bool
  | .mapOrient _ _ _ | .mapApplycal _ _ _ _ | .sysTick => true
  | .btpPulse | .btpWlb _ | .lcdInit | .lcdFlush _ _ | .tchInit _ _ _ | .tchReadch _ | .tchDenoise _ | .tchPoll
  | .mapCalibrate _ _ _ _ _ | .reservedC | .reservedD | .reservedE | .reservedF
  | .cmdPllMult _ | .cmdPllCtrl _ | .cmdSoftReset _ | .cmdPclkDiv _ | .cmdPanelSpec _ | .cmdHsync _ | .cmdVsync _
  | .cmdGpioMode _ | .cmdPixelIf _ | .cmdColAddr _ _ | .cmdRowAddr _ _ | .cmdMemWrite _ | .cmdDisplayOn _ | .cmdBlPwm _
  | .cmdDynBl _
  | .cmdTouchX | .cmdTouchY | .cmdTouchPd | .lcdPix _ | .lcdRpt => false

theorem exec_pure {i : Instr} {s t : State} (hi : isPure i = true) (h : exec i s = .next t) : ∃ r, t = s.finish r := by
  cases i <;> try cases hi
  case mapOrient x y f =>
    change execMapOrient x y f s = .next t at h
    obtain ⟨-, h⟩ := issue_next h
    obtain ⟨-, h⟩ := refuseIf_next h
    have hx := complete_next h
    exact ⟨_, hx⟩
  case mapApplycal v a b d =>
    change execMapApplycal v a b d s = .next t at h
    obtain ⟨-, h⟩ := issue_next h
    obtain ⟨-, h⟩ := refuseIf_next h
    have hx := complete_next h
    exact ⟨_, hx⟩
  case sysTick =>
    change execSysTick s = .next t at h
    obtain ⟨-, h⟩ := issue_next h
    exact ⟨_, complete_next h⟩

theorem lcdFrame_selected {code : Byte} {args : List Byte} {s t : State} (h : lcdFrame code args s = .next t) :
    s.pin.lCs = some true := (withBus_next h).2.2.1

theorem execBtpPulse_selected {s t : State} (h : execBtpPulse s = .next t) : s.pin.lCs = some true := (withBus_next h).2.2.1

theorem execBtpWlb_selected {v : Half} {s t : State} (h : execBtpWlb v s = .next t) : s.pin.lCs = some true :=
  (withBus_next h).2.2.1

theorem execLcdPix_selected {p : Half} {s t : State} (h : execLcdPix p s = .next t) : s.pin.lCs = some true :=
  (withBus_next h).2.2.1

theorem execLcdRpt_selected {s t : State} (h : execLcdRpt s = .next t) : s.pin.lCs = some true := (withBus_next h).2.2.1

/-- A bus write issued directly completes only with the controller selected (R132). -/
theorem exec_bus {i : Instr} {s t : State} (hi : isBusInstr i = true) (h : exec i s = .next t) : s.pin.lCs = some true := by
  cases i <;> try cases hi
  case btpPulse => exact execBtpPulse_selected h
  case btpWlb v => exact execBtpWlb_selected h
  case lcdPix p => exact execLcdPix_selected h
  case lcdRpt => exact execLcdRpt_selected h
  all_goals exact lcdFrame_selected (code := _) (args := _) h

/-- What an instruction is, for a case analysis that keeps families together. -/
theorem instr_cases (s : State) (i : Instr) :
    (∃ es, lcdScript s i = some es) ∨ asksEnvironment i = true ∨
      (∃ x y f, i = .tchInit x y f) ∨ (∃ xl xh yl yh m, i = .mapCalibrate xl xh yl yh m) ∨ isPure i = true ∨
      isReserved i = true := by
  cases i
  all_goals first
    | exact .inl ⟨_, rfl⟩
    | exact .inr (.inl rfl)
    | exact .inr (.inr (.inl ⟨_, _, _, rfl⟩))
    | exact .inr (.inr (.inr (.inl ⟨_, _, _, _, _, rfl⟩)))
    | exact .inr (.inr (.inr (.inr (.inl rfl))))
    | exact .inr (.inr (.inr (.inr (.inr rfl))))

/-- A reserved code never completes (R114). -/
theorem exec_reserved {i : Instr} {s : State} (hi : isReserved i = true) : exec i s = .refused .reservedOp := by
  cases i <;> first | rfl | cases hi

end Sys2Proof.Machine
end

