-- ==== Sys2Proof/Laws/Decode.lean ====
section
/-!
SUPPORT. The decoder and the encoder: bytes of a 16-bit value (30_encoding.md R106), bus words (R100), and decoding each
family of bus forms (R104, R111).
-/

namespace Sys2Proof

theorem bytes_toNat (v : Half) : 256 * (hiByte v).toNat + (loByte v).toNat = v.toNat := by
  have h := v.isLt
  simp only [hiByte, loByte, BitVec.extractLsb'_toNat, Nat.shiftRight_eq_div_pow]
  omega

theorem decodeLbw_pixel (c : Config) (p : Half) : decodeLbw c (1#1 ++ p) = .ok (.lcdPix p) := by
  have h1 : (1#1 ++ p).getLsbD 16 = true := by rw [BitVec.getLsbD_append, if_neg (by omega)]; decide
  have h2 : (1#1 ++ p).extractLsb' 0 16 = p := by
    apply BitVec.eq_of_getLsbD_eq
    intro i hi
    simp only [BitVec.getLsbD_append, BitVec.getLsbD_extractLsb', hi, decide_true, Bool.true_and, Nat.zero_add, if_true]
  unfold decodeLbw
  rw [h1, h2, if_pos rfl]

/-- A word with `L_DC` = 0 is the command its low byte is, if its high byte is zero (R100). -/
theorem decodeLbw_command (c : Config) (v : Half) :
    decodeLbw c (0#1 ++ v) = if hiByte v = 0#8 then decodeLcf c (loByte v) [] else .error .notAnLcdCommand := by
  have h1 : (0#1 ++ v).getLsbD 16 = false := by rw [BitVec.getLsbD_append, if_neg (by omega)]; decide
  have h2 : (0#1 ++ v).extractLsb' 8 8 = hiByte v := by
    apply BitVec.eq_of_getLsbD_eq
    intro i hi
    simp only [hiByte, BitVec.getLsbD_extractLsb', BitVec.getLsbD_append, show 8 + i < 16 by omega, if_true]
  have h3 : (0#1 ++ v).extractLsb' 0 8 = loByte v := by
    apply BitVec.eq_of_getLsbD_eq
    intro i hi
    simp only [loByte, BitVec.getLsbD_extractLsb', BitVec.getLsbD_append, show 0 + i < 16 by omega, if_true]
  unfold decodeLbw
  rw [h1, if_neg (by simp), h2, h3]

/-- `zext_16` of a byte is the value whose high byte is zero and whose low byte is that byte (R100). -/
theorem setWidth_bytes (v : Half) (code : Byte) : v = code.setWidth 16 ↔ hiByte v = 0#8 ∧ loByte v = code := by
  have hv := bytes_toNat v
  constructor
  · rintro rfl
    have hc := code.isLt
    constructor <;> apply BitVec.eq_of_toNat_eq <;>
      simp [hiByte, loByte, BitVec.extractLsb'_toNat, Nat.shiftRight_eq_div_pow] <;> omega
  · rintro ⟨h1, rfl⟩
    rw [h1] at hv
    apply BitVec.eq_of_toNat_eq
    rw [BitVec.toNat_setWidth, ← hv]
    have := (loByte v).isLt
    simp; omega

/-- The arguments of a frame are the bytes it was given, whichever operand stands for them (R101, R104). -/
@[simp] theorem givenArgs_getD (own args : List Byte) : (givenArgs own args).getD own = args := by
  unfold givenArgs
  split
  · exact Eq.symm ‹_›
  · rfl

theorem decodes_ite {c : Config} {p : Prop} [Decidable p] {i : Instr} {e : Except Reject Instr} {f : Byte × List Byte}
    (h1 : p → Machine.lcdFrameOf c i = some f) (h2 : ¬ p → ∃ j, e = .ok j ∧ Machine.lcdFrameOf c j = some f) :
    ∃ j, (if p then .ok i else e) = .ok j ∧ Machine.lcdFrameOf c j = some f := by
  split
  · exact ⟨i, rfl, h1 ‹_›⟩
  · exact h2 ‹_›

/-- A frame decodes exactly when its command is one of the fifteen, whatever its argument bytes (R65, R101, R104). -/
theorem decodeLcf_spec (c : Config) (code : Byte) (args : List Byte) :
    (code ∈ c.lcdCommands → ∃ i, decodeLcf c code args = .ok i ∧ Machine.lcdFrameOf c i = some (code, args)) ∧
    (code ∉ c.lcdCommands → decodeLcf c code args = .error .notAnLcdCommand) := by
  constructor
  · intro h
    unfold decodeLcf
    iterate 15 refine decodes_ite (fun hc => by simp [hc, Machine.lcdFrameOf]) fun _ => ?_
    simp [Config.lcdCommands, *] at h
  · intro h
    simp only [Config.lcdCommands, List.mem_cons, List.not_mem_nil, or_false, not_or] at h
    simp [decodeLcf, h]

/-- A bus word is its `L_DC` and its sixteen data bits (R100). -/
theorem busWord_split (w : BitVec 17) : BitVec.ofBool (w.getLsbD 16) ++ w.extractLsb' 0 16 = w := by
  apply BitVec.eq_of_getLsbD_eq
  intro i hi
  rw [BitVec.getLsbD_append]
  by_cases h16 : i < 16
  · simp [h16]
  · have : i = 16 := by omega
    subst this
    simp

end Sys2Proof
end

