-- ==== Sys2Proof/Laws/Stream.lean ====
section
/-!
SUPPORT. The event lists of the LCD operations and the run code of a row: their commands, lines, latch,
    sizes and delivered words
(40_bus_timing.md R136, 41_lcd_controller.md R153, R160, R162).
-/

namespace Sys2Proof.Machine

/-- A script writes nothing but the LCD part of the state (R150). -/
theorem lcdEvents_part (es : List LcdEvent) (s : State) (b : Bool) (r : Result) :
   ((lcdEvents es s).setLcdReady b).finish r =
       { lcdPart s (((lcdEvents es s).setLcdReady b).finish r) with lcdReady := b } := by
  obtain ⟨h1, h2, h3⟩ := Pins.foldl_touch es s.pin
  apply State.ext_fields <;> simp [lcdPart]
  generalize (es.flatMap LcdEvent.levelP).foldl Pins.apply s.pin = p at *
  cases p; simp_all

/-- The latch after LCD.INIT (R50). -/
theorem initSequence_latch (c : Config) (l : Option Half) : ((initHead c).flatten ++ initClear c ++
    (initTail c).flatten ++ [LcdEvent.lcdDesel]).foldl latchAfter l
   = some ((c.argsBlPwm.getLastD c.cmdBlPwm).setWidth 16) := by
  have : ∀ (args : List Byte) (l : Option Half) (d : Byte), l = some (d.setWidth 16) →
      (args.map LcdEvent.lcdData).foldl latchAfter l = some ((args.getLastD d).setWidth 16) := by
    intro args
    induction args with
    | nil => intro l d h; simpa using h
    | cons a as ih => intro l d h; simp only [List.map_cons, List.foldl_cons, latchAfter,
        List.getLastD_cons]; exact ih _ _ rfl
  simp only [initTail, List.foldl_append, List.flatten_cons, List.flatten_nil, List.append_nil, cmdFrame,
      List.foldl_cons, List.foldl_nil, latchAfter]
  rw [this _ _ _ rfl]

theorem dataBytes_lines (args : List Byte) (p : Pins) (h : p.lLe = some false ∧ p.lWr = some true) :
   let q := ((args.map LcdEvent.lcdData).flatMap LcdEvent.levelP).foldl Pins.apply p
   q.lRst = p.lRst ∧ q.lCs = p.lCs ∧ q.lDc = p.lDc ∧ q.lLe = some false ∧ q.lWr = some true := by
  induction args generalizing p with
  | nil => simp [h]
  | cons a as ih =>
    simp only [List.map_cons, List.flatMap_cons, List.foldl_append]
    have := ih ((LcdEvent.lcdData a).levelP.foldl Pins.apply p) (by simp [LcdEvent.levelP, levelWL, Pins.apply,
        Pins.set])
    simpa [LcdEvent.levelP, levelWL, Pins.apply, Pins.set] using this

theorem dataBytes_dl (args : List Byte) (p : Pins) (d : Byte) (h : p.dl = some (d.setWidth 16)) :
   (((args.map LcdEvent.lcdData).flatMap LcdEvent.levelP).foldl Pins.apply p).dl = some
       ((args.getLastD d).setWidth 16) := by
  induction args generalizing p d with
  | nil => simpa using h
  | cons a as ih =>
    simp only [List.map_cons, List.flatMap_cons, List.foldl_append, List.getLastD_cons]
    apply ih
    simp [LcdEvent.levelP, levelWL, Pins.apply, Pins.set]

/-- The lines after a command frame (R136). -/
theorem cmdFrame_pins (c : Byte) (args : List Byte) (p : Pins) :
   ((cmdFrame c args).flatMap LcdEvent.levelP).foldl Pins.apply p =
       { p with lDc := some true, lLe := some false, lWr := some true, dl := some ((args.getLastD c).setWidth 16)} := by
  unfold cmdFrame
  simp only [List.flatMap_cons, List.foldl_append]
  have h1 : (LcdEvent.lcdCmd c).levelP.foldl Pins.apply p =
      { p with lDc := some true, lLe := some false, lWr := some true, dl := some (c.setWidth 16)} := by
    simp [LcdEvent.levelP, levelWL, Pins.apply, Pins.set]
  rw [h1]
  have h2 := dataBytes_lines args { p with lDc := some true, lLe := some false, lWr := some true, dl := some (c.setWidth 16)} ⟨rfl, rfl⟩
  have h3 := dataBytes_dl args { p with lDc := some true, lLe := some false, lWr := some true, dl := some (c.setWidth 16)} c rfl
  have h4 := Pins.foldl_touch
      (args.map LcdEvent.lcdData) { p with lDc := some true, lLe := some false, lWr := some true, dl := some (c.setWidth 16)}
  generalize ((args.map LcdEvent.lcdData).flatMap LcdEvent.levelP).foldl Pins.apply { p with lDc := some true, lLe := some false, lWr := some true, dl := some (c.setWidth 16)} = q at *
  cases q; simp_all

theorem busWrites_lRst (es : List LcdEvent) (p : Pins) (h : es.all (fun e => isBusWrite e ||
    (e matches .delayMs _)) = true) (hr : p.lRst = some false) :
   ((es.flatMap LcdEvent.levelP).foldl Pins.apply p).lRst = some false := by
  induction es generalizing p with
  | nil => exact hr
  | cons e es ih =>
    simp only [List.all_cons, Bool.and_eq_true] at h
    rw [List.flatMap_cons, List.foldl_append]
    apply ih _ h.2
    cases e <;> simp [isBusWrite] at h <;> simpa [LcdEvent.levelP, levelWL, levelPS, Pins.apply, Pins.set] using hr

/-- The lines after LCD.INIT (R50). -/
theorem initSequence_pins (c : Config) (p : Pins) : let q := (((initHead c).flatten ++ initClear c ++
    (initTail c).flatten ++ [LcdEvent.lcdDesel]).flatMap LcdEvent.levelP).foldl Pins.apply p
  q.lRst = some false ∧ q.lCs = some false ∧ q.lDc = some true ∧ q.lWr = some true ∧ q.lLe = some false ∧ q.dl =
      some ((c.argsBlPwm.getLastD c.cmdBlPwm).setWidth 16) := by
  have e : (initHead c).flatten ++ initClear c ++ (initTail c).flatten ++ [LcdEvent.lcdDesel] = 
     [.pinSetup, .lcdReset, .lcdSel] ++ ((initHead c).tail.flatten ++ initClear c ++ (initTail c).head!) ++
         (cmdFrame c.cmdBlPwm c.argsBlPwm ++ [.delayMs .dlyS13, .lcdDesel]) := by
    simp [initHead, initTail]
  have hmids : ((initHead c).tail.flatten ++ initClear c ++ (initTail c).head!).all (fun e => isBusWrite e ||
      (e matches .delayMs _)) = true := by
    have hd : ∀ args : List Byte, (args.map LcdEvent.lcdData).all (fun e => isBusWrite e ||
        (e matches .delayMs _)) = true := by
      intro args; simp [isBusWrite]
    unfold initHead initClear initTail
    split <;> simp [clearPanel, window, boundFrame, cmdFrame, isBusWrite, wholePanel]
  rw [e]
  simp only [List.flatMap_append, List.foldl_append]
  have h0 : (([.pinSetup, .lcdReset, .lcdSel] : List LcdEvent).flatMap LcdEvent.levelP).foldl Pins.apply p =
      { p with lCs := some true, lWr := some true, lDc := some true, lLe := some false, lRst := some false } := by
    simp [LcdEvent.levelP, Pins.apply, Pins.set]
  rw [h0]
  have h1 := busWrites_lRst _ { p with lCs := some true, lWr := some true, lDc := some true, lLe := some false, lRst := some false } hmids rfl
  simp only [List.flatMap_append, List.foldl_append] at h1
  rw [cmdFrame_pins]
  simp [LcdEvent.levelP, Pins.apply, Pins.set, h1]

theorem flushEvents_nonEmpty (c r buf) : (clip c r).isEmpty = false → flushEvents c r buf = [.lcdSel] ++ window c
    (clip c r) ++ [.lcdCmd c.cmdMemWrite] ++ streamEvents (clippedRows r (clip c r) buf) ++ [.lcdDesel,
        .flushDone] := by
  intro h; unfold flushEvents; simp [h]

theorem clip_isEmpty_iff (k : Clip) : k.isEmpty = true ↔ k.cx1 > k.cx2 ∨ k.cy1 > k.cy2 := by
  simp [Clip.isEmpty]

theorem runCode_after (row : List Half) (prev : Option Half) : runCode prev row = (List.range row.length).map fun j =>
    if (if j = 0 then prev = row[0]? else row[j]? = row[j-1]?) then LcdEvent.lcdRpt else .lcdPix
        (row.getD j 0#16) := by
  induction row generalizing prev with
  | nil => rfl
  | cons a as ih =>
    rw [runCode, ih, List.length_cons, List.range_succ_eq_map, List.map_cons, List.map_map]
    congr 1
    refine List.map_congr_left fun j hj => ?_
    simp only [Function.comp]
    cases j with
    | zero => simp [eq_comm]
    | succ j => simp

/-- A row has as many writes as pixels (R163). -/
theorem runCode_counts (row : List Half) (prev : Option Half) : newValueWrites (runCode prev row) + repeatStrobes
    (runCode prev row) = row.length := by
  induction row generalizing prev with
  | nil => rfl
  | cons a as ih =>
    have := ih (some a)
    simp only [runCode, newValueWrites, repeatStrobes, List.countP_cons, List.length_cons] at *
    split <;> simp [isNewValue, isRepeat] <;> omega

theorem newValueWrites_run (row : List Half) (p : Half) : newValueWrites (runCode (some p) row) =
    (List.range' 1 row.length).countP (fun j => (p :: row)[j]? ≠ (p :: row)[j - 1]?) := by
  induction row generalizing p with
  | nil => rfl
  | cons a as ih =>
    have := ih a
    rw [List.length_cons, List.range'_succ, List.countP_cons]
    rw [runCode]
    simp only [newValueWrites, List.countP_cons] at *
    rw [this]
    congr 1
    · have e : List.range' 2 as.length = (List.range' 1 as.length).map (1 + ·) := by
        rw [List.map_add_range']
      rw [e, List.countP_map]
      refine List.countP_congr fun j hj => ?_
      rw [List.mem_range'_1] at hj
      obtain ⟨k, rfl⟩ : ∃ k, j = k + 1 := ⟨j-1, by omega⟩
      simp [Function.comp, Nat.add_comm 1]
    · by_cases h : p = a
      · simp [h, isNewValue]
      · have h' : ¬ a = p := fun g => h g.symm
        simp [h, h', isNewValue]

theorem rowPixels_length (r k buf y) : (rowPixels r k buf y).length = k.actWidth.toNat := by simp [rowPixels]

theorem recoverPixels_run (row : List Half) (prev : Option Half) (es) : ∃ l, recoverPixels prev (runCode prev row ++
    es) = row ++ recoverPixels l es := by
  induction row generalizing prev with
  | nil => exact ⟨prev, rfl⟩
  | cons a as ih =>
    obtain ⟨l, hl⟩ := ih (some a)
    refine ⟨l, ?_⟩
    rw [runCode, List.cons_append]
    split
    · rename_i h; subst h
      simp only [recoverPixels, hl, List.cons_append, Option.toList, List.nil_append]
    · simp only [recoverPixels, hl, List.cons_append]

theorem recoverPixels_row (row : List Half) (prev : Option Half) (es) (h : row ≠ []) : ∃ l, recoverPixels prev
    (runCode none row ++ es) = row ++ recoverPixels l es := by
  cases row with
  | nil => exact absurd rfl h
  | cons a as => 
    obtain ⟨l, hl⟩ := recoverPixels_run as (some a) es
    exact ⟨l, by simp only [runCode, List.cons_append, reduceCtorEq, if_false, recoverPixels]; rw [hl]⟩

/-- Decoding the pixel stream gives the rows back (R103). -/
theorem recoverPixels_rows (rows : List (List Half)) (prev : Option Half) (es) (h : ∀ r ∈ rows, r ≠ []) : ∃ l,
    recoverPixels prev (streamEvents rows ++ es) = rows.flatten ++ recoverPixels l es := by
  induction rows generalizing prev with
  | nil => exact ⟨prev, rfl⟩
  | cons r rs ih =>
    have : streamEvents (r :: rs) ++ es = runCode none r ++ (streamEvents rs ++ es) := by simp [streamEvents]
    rw [this]
    obtain ⟨l, hl⟩ := recoverPixels_row r prev (streamEvents rs ++ es) (h r (by simp))
    obtain ⟨l', hl'⟩ := ih l (fun r hr => h r (by simp [hr]))
    exact ⟨l', by rw [hl, hl']; simp⟩

theorem streamWords_append (l) (es fs : List LcdEvent) : streamWords l (es ++ fs) = streamWords l es ++ streamWords
    (es.foldl latchAfter l) fs := by
  induction es generalizing l with
  | nil => rfl
  | cons e es ih => simp [streamWords, ih]

theorem streamWords_run (row : List Half) (prev) (l : Option Half) (h : prev = none ∨ prev = l) : (streamWords l
    (runCode prev row)).map BusWord.value = row ∧ ∀ w ∈ streamWords l (runCode prev row), w.dc = true := by
  induction row generalizing prev l with
  | nil => simp [runCode, streamWords]
  | cons a as ih =>
    rw [runCode]
    by_cases hp : prev = some a
    · rw [if_pos hp]
      have hl : l = some a := by rcases h with h | h; · rw [h] at hp; cases hp
                                 · rw [← h, hp]
      have := ih (some a) (some a) (.inr rfl)
      subst hl
      simpa [streamWords, eventWords, latchAfter] using this
    · rw [if_neg hp]
      have := ih (some a) (some a) (.inr rfl)
      simpa [streamWords, eventWords, latchAfter] using this

/-- What a pixel stream delivers is its rows, as data (R42). -/
theorem streamWords_rows (rows : List (List Half)) (l : Option Half) : (streamWords l
    (streamEvents rows)).map BusWord.value = rows.flatten ∧ ∀ w ∈ streamWords l (streamEvents rows), w.dc = true := by
  induction rows generalizing l with
  | nil => simp [streamEvents, streamWords]
  | cons r rs ih =>
    have : streamEvents (r :: rs) = runCode none r ++ streamEvents rs := by simp [streamEvents]
    rw [this, streamWords_append]
    have h1 := streamWords_run r none l (.inl rfl)
    have h2 := ih ((runCode none r).foldl latchAfter l)
    simp only [List.map_append, h1.1, h2.1, List.flatten_cons, List.mem_append, true_and]
    rintro w (h | h)
    · exact h1.2 w h
    · exact h2.2 w h

theorem runCode_isBusWrite (row : List Half) (p) : (runCode p row).all isBusWrite = true := by
  induction row generalizing p with
  | nil => rfl
  | cons a as ih => simp only [runCode, List.all_cons, ih, Bool.and_true]; split <;> rfl

theorem streamEvents_isBusWrite (rows : List (List Half)) : (streamEvents rows).all isBusWrite = true := by
  simp only [streamEvents, List.all_flatMap, List.all_eq_true]; intro row _; exact List.all_eq_true.1
      (runCode_isBusWrite row none)

theorem streamWords_frame (c : Byte) (args : List Byte) (l) : streamWords l (cmdFrame c args) = frameWords c args :=
    by
  have : ∀ (args : List Byte) l, streamWords l (args.map LcdEvent.lcdData) =
      args.map fun d => { dc := true, value := d.setWidth 16, kind := .latched } := by
    intro args; induction args with
    | nil => intro; rfl
    | cons a as ih => intro l; simp [streamWords, eventWords, ih]
  simp [cmdFrame, streamWords, eventWords, frameWords, this]

/-- A pixel write, of either kind (R17). -/
def isPixelWrite (e : LcdEvent) : Bool := isNewValue e || isRepeat e

theorem levelP_length (e : LcdEvent) (h : isPixelWrite e = true) : e.levelP.length = 7 *
    (if isNewValue e then 1 else 0) + 3 * (if isRepeat e then 1 else 0) := by
  cases e <;> first | rfl | exact absurd h Bool.false_ne_true

/-- Level-P size of a pixel stream (R168). -/
theorem levelP_lengths : ∀ es : List LcdEvent, es.all isPixelWrite = true → (es.flatMap LcdEvent.levelP).length =
    7 * newValueWrites es + 3 * repeatStrobes es := by
  intro es; induction es with
  | nil => intro; rfl
  | cons e es ih =>
    intro h
    rw [List.all_cons, Bool.and_eq_true] at h
    have := ih h.2
    unfold newValueWrites repeatStrobes at *
    rw [List.countP_cons, List.countP_cons, List.flatMap_cons, List.length_append, levelP_length e h.1, this]
    omega

theorem streamEvents_isPixelWrite (rows) : (streamEvents rows).all isPixelWrite = true := by
  have : ∀ (row : List Half) p, (runCode p row).all isPixelWrite = true := by
    intro row; induction row with
    | nil => intro; rfl
    | cons a as ih => intro p; simp only [runCode, List.all_cons, ih, Bool.and_true]; split <;> rfl
  simp only [streamEvents, List.all_flatMap, List.all_eq_true]; intro row _; exact List.all_eq_true.1 (this row none)

theorem runCode_noCommand (row : List Half) (p) (c) : LcdEvent.lcdCmd c ∉ runCode p row := by
  induction row generalizing p with
  | nil => simp [runCode]
  | cons a as ih => simp only [runCode, List.mem_cons, not_or]; exact ⟨by split <;> simp, ih _⟩

/-- The commands of a Flush (R66). -/
theorem flushEvents_commands (c r buf code) (h : LcdEvent.lcdCmd code ∈ flushEvents c r buf) : code = c.cmdColAddr ∨
    code = c.cmdRowAddr ∨ code = c.cmdMemWrite := by
  unfold flushEvents at h
  dsimp only at h
  split at h
  · simp at h
  · have hs : LcdEvent.lcdCmd code ∉ streamEvents (clippedRows r (clip c r) buf) := by
      simp only [streamEvents, List.mem_flatMap, not_exists, not_and]; intro row _; exact runCode_noCommand row none _
    simp only [List.mem_append, hs, window, boundFrame, cmdFrame, boundBytes] at h
    simp at h; tauto

theorem cmdFrame_command {c args code} (h : LcdEvent.lcdCmd code ∈ cmdFrame c args) : code = c := by
  simpa [cmdFrame] using h

/-- The commands of LCD.INIT: every one but `CMD_DYN_BL` (R117). -/
theorem initSequence_commands (c code) (h : LcdEvent.lcdCmd code ∈ (initHead c).flatten ++ initClear c ++
    (initTail c).flatten ++ [.lcdDesel]) : code ∈ [c.cmdPllMult, c.cmdPllCtrl, c.cmdSoftReset, c.cmdPclkDiv,
        c.cmdPanelSpec, c.cmdHsync, c.cmdVsync, c.cmdGpioMode,
    c.cmdPixelIf, c.cmdColAddr, c.cmdRowAddr, c.cmdMemWrite, c.cmdDisplayOn, c.cmdBlPwm] := by
  have hc : LcdEvent.lcdCmd code ∈ initClear c → code = c.cmdColAddr ∨ code = c.cmdRowAddr ∨ code = c.cmdMemWrite :=
      by
    intro h
    unfold initClear at h
    split at h
    · simp [clearPanel, window, boundFrame, cmdFrame, boundBytes] at h
      tauto
    · simp at h
  simp only [List.mem_append] at h
  rcases h with ((h | h) | h) | h
  · simp [initHead, cmdFrame] at h
    simp; tauto
  · rcases hc h with h | h | h <;> simp [h]
  · simp [initTail, cmdFrame] at h
    simp; tauto
  · simp at h

/-- A Flush is its completion alone, or one selected stretch of bus writes and then the completion (R159, R166). -/
theorem flushEvents_shape (c r buf) : flushEvents c r buf = [.flushDone] ∨ ∃ mid, mid.all isBusWrite = true ∧
    flushEvents c r buf = [.lcdSel] ++ mid ++ [.lcdDesel, .flushDone] := by
  by_cases he : (clip c r).isEmpty = true
  · left; unfold flushEvents; dsimp only; rw [if_pos he]
  · right
    refine ⟨window c (clip c r) ++ [.lcdCmd c.cmdMemWrite] ++ streamEvents (clippedRows r (clip c r) buf), ?_, ?_⟩
    · rw [List.all_append, List.all_append, streamEvents_isBusWrite]; rfl
    · rw [flushEvents_nonEmpty c r buf (by simpa using he)]; simp only [List.append_assoc]

theorem busWrites_lCs (es : List LcdEvent) (p : Pins) (he : es.all isBusWrite = true) :
    ((es.flatMap LcdEvent.levelP).foldl Pins.apply p).lCs = p.lCs := by
  induction es generalizing p with
  | nil => rfl
  | cons e es ih =>
    rw [List.all_cons, Bool.and_eq_true] at he
    rw [List.flatMap_cons, List.foldl_append, ih _ he.2, (busWrite_lines p e he.1).1]

/-! ### What is delivered, delays among the writes (R42, R153) -/

/-- Bus writes with delays among them. -/
def isWriteOrDelay (e : LcdEvent) : Bool := isBusWrite e || (e matches .delayMs _)

/-- `lcdEvents_delivered`, delays among the writes. -/
theorem lcdEvents_delivered_mid (es : List LcdEvent) (s : State) (hb : es.all isWriteOrDelay = true)
    (hcs : s.pin.lCs = some true) (hdc : s.pin.lDc = some true) :
    (lcdEvents es s).delivered = s.delivered ++ streamWords s.latch es := by
  induction es generalizing s with
  | nil => simp [streamWords]
  | cons e es ih =>
    rw [List.all_cons, Bool.and_eq_true] at hb
    rw [lcdEvents_cons]
    rcases Bool.or_eq_true_iff.1 hb.1 with h | h
    · obtain ⟨h1, h2⟩ := busWrite_lines s.pin e h
      rw [ih (lcdEvent s e) hb.2 (by rw [lcdEvent_pin, h1, hcs]) (by rw [lcdEvent_pin, h2 hdc]),
        lcdEvent_delivered s e h hcs hdc, lcdEvent_latch, streamWords, List.append_assoc]
    · cases e <;> first | cases h; done | skip
      rw [ih _ hb.2 (by simpa [LcdEvent.levelP, Pins.apply] using hcs)
        (by simpa [LcdEvent.levelP, Pins.apply] using hdc), lcdEvent_quiet _ _ rfl]
      simp [streamWords, eventWords, latchAfter]

theorem streamWords_repeats (n : Nat) (v : Half) (es : List LcdEvent) :
    streamWords (some v) (List.replicate n LcdEvent.lcdRpt ++ es) =
      List.replicate n (BusWord.mk true v .repeated) ++ streamWords (some v) es := by
  induction n with
  | zero => rfl
  | succ n ih => simp [List.replicate_succ, streamWords, eventWords, latchAfter, ih]

theorem streamWords_frame_append (code : Byte) (args : List Byte) (l : Option Half) (es : List LcdEvent) :
    streamWords l (cmdFrame code args ++ es) =
      frameWords code args ++ streamWords ((cmdFrame code args).foldl latchAfter l) es := by
  rw [streamWords_append, streamWords_frame]

/-- What LCD.INIT does between its selection and its deselection. -/
def initMiddle (c : Config) : List LcdEvent := (initHead c).tail.flatten ++ initClear c ++ (initTail c).flatten

/-- LCD.INIT is one selected stretch of writes and delays (R153). -/
theorem initSequence_shape (c : Config) : (initMiddle c).all isWriteOrDelay = true ∧
    (initHead c).flatten ++ initClear c ++ (initTail c).flatten ++ [LcdEvent.lcdDesel] =
      [.pinSetup, .lcdReset, .lcdSel] ++ initMiddle c ++ [.lcdDesel] := by
  refine ⟨?_, by simp [initMiddle, initHead]⟩
  unfold initMiddle initHead initClear initTail
  split <;> simp [clearPanel, window, boundFrame, cmdFrame, isWriteOrDelay, isBusWrite, wholePanel]

/-- The words of that stretch (R42, R153, R154). -/
theorem initMiddle_words (c : Config) (hw : 1 ≤ c.panelW) (hh : 1 ≤ c.panelH) (l : Option Half) :
    streamWords l (initMiddle c) = initWords c := by
  have hd : ∀ l n es, streamWords l (LcdEvent.delayMs n :: es) = streamWords l es := fun _ _ _ => rfl
  have hp : ∀ l v es, streamWords l (LcdEvent.lcdPix v :: es) = BusWord.mk true v .latched :: streamWords (some v) es :=
    fun _ _ _ => rfl
  have hn : ∀ l, streamWords l [] = [] := fun _ => rfl
  have hm : ∀ code l es, streamWords l (LcdEvent.lcdCmd code :: es) =
      frameWords code [] ++ streamWords ((cmdFrame code []).foldl latchAfter l) es := fun _ _ _ => rfl
  unfold initMiddle initWords initClear initHead initTail
  cases c.clearOnInit <;>
    simp [clearPanel, window, wholePanel, boundFrame, List.append_assoc, hd, hp, hn, streamWords_frame_append, hm,
      boundHalf_zero, boundHalf_pred _ hw, boundHalf_pred _ hh, streamWords_repeats]

end Sys2Proof.Machine
end

