-- ==== Sys2Proof/Laws/Discipline.lean ====
section
/-!
SUPPORT. The lines between operations, and the chip-select discipline as one check that walks a level-P list
(60_exceptions.md R289, 70_reset_and_hazards.md R310).
-/

namespace Sys2Proof.Machine

theorem TouchShape.run {s u : State} (h : TouchShape s u) : ∃ es : List TchEvent, TouchRun es s u ∧ ∀ code r,
    TchEvent.tchXchg code r ∈ es → code ∈ s.cfg.touchCommands := by
  rcases h with h | ⟨a, b, h, g, rfl⟩ | ⟨-, h⟩
  · exact h.events
  · obtain ⟨es, h1, h2⟩ := h.events
    obtain ⟨fs, g1, g2⟩ := g.events
    refine ⟨_, (h1.trans (tchSel_run a)).trans (g1.trans (tchDesel_run b)), ?_⟩
    have hc : (tchSel a).cfg = s.cfg := h1.frame.cfg
    rw [hc] at g2
    intro code r hm
    simp only [List.mem_append, List.mem_singleton] at hm
    rcases hm with (hm | hm) | (hm | hm)
    · exact h2 _ _ hm
    · cases hm
    · exact g2 _ _ hm
    · cases hm
  · exact h.events

theorem TouchShape.pins {s u : State} (h : TouchShape s u) : ∃ ps, u.traceP = s.traceP ++ ps ∧ u.pin =
    ps.foldl Pins.apply s.pin := by
  rcases h with h | ⟨a, b, h, g, rfl⟩ | ⟨-, h⟩
  · obtain ⟨ps, h1, h2, -⟩ := h.pins; exact ⟨ps, h1, h2⟩
  · obtain ⟨ps, h1, h2, -⟩ := h.pins
    obtain ⟨qs, g1, g2, -⟩ := g.pins
    refine ⟨ps ++ ([.set .tCs true] ++ (qs ++ [.set .tCs false])), ?_, ?_⟩
    · rw [tchDesel, State.emitP_traceP, State.emitF_traceP, g1, tchSel, State.emitP_traceP, State.emitF_traceP,
          h1]; simp
    · rw [tchDesel, State.emitP_pin, State.emitF_pin, g2, tchSel, State.emitP_pin, State.emitF_pin, h2]; simp
  · obtain ⟨ps, h1, h2, -⟩ := h.pins; exact ⟨ps, h1, h2⟩

/-- The LCD lines at rest, the chip-select apart (R50). -/
def Resting (p : Pins) (l : Option Half) : Prop := p.lRst = some false ∧ p.lDc = some true ∧ p.lWr = some true ∧
    p.lLe = some false ∧ l.isSome ∧ p.dl = l

/-- An event that keeps them there. -/
def keepsRest : LcdEvent → Bool | .pinSetup => false | .lcdReset => false | _ => true

theorem Resting.event {p : Pins} {l} (h : Resting p l) (e : LcdEvent) (he : keepsRest e = true) : Resting
    (e.levelP.foldl Pins.apply p) (latchAfter l e) := by
  obtain ⟨h1, h2, h3, h4, h5, h6⟩ := h
  cases e <;> try cases he
  all_goals simp [Resting, LcdEvent.levelP, levelWL, levelPS, Pins.apply, Pins.set, latchAfter, *]

theorem Resting.events {p : Pins} {l} (h : Resting p l) (es : List LcdEvent) (he : es.all keepsRest = true) :
    Resting ((es.flatMap LcdEvent.levelP).foldl Pins.apply p) (es.foldl latchAfter l) := by
  induction es generalizing p l with
  | nil => exact h
  | cons e es ih =>
    rw [List.all_cons, Bool.and_eq_true] at he
    rw [List.flatMap_cons, List.foldl_append, List.foldl_cons]
    exact ih (h.event e he.1) he.2

theorem keepsRest_busWrite (e : LcdEvent) (h : isBusWrite e = true) : keepsRest e = true :=
    by cases e <;> first | rfl | cases h

theorem samples_pins (ps : List EventP) (p : Pins) (h : ps.all sampleEvent = true) : ps.foldl Pins.apply p = p := by
  induction ps with
  | nil => rfl
  | cons e es ih =>
    rw [List.all_cons, Bool.and_eq_true] at h
    cases e <;> first | exact ih h.2 | cases h.1

/-- Not both chip-selects at once. -/
def selectOk (p : Pins) : Bool := !(p.lCs == some true && p.tCs == some true)

/-- A strobe falls with the controller selected, a touch clock rises with the ADC selected. -/
def edgeOk (p : Pins) : EventP → Bool
  | .set .lWr false => p.lCs == some true
  | .set .tClk true => p.tCs == some true
  | _ => true

/-- Both, at every point of a level-P list. -/
def disciplined : Pins → List EventP → Bool
  | p, [] => selectOk p
  | p, e :: es => selectOk p && edgeOk p e && disciplined (p.apply e) es

theorem disciplined_append (p : Pins) (a b : List EventP) (h1 : disciplined p a = true) (h2 : disciplined
    (a.foldl Pins.apply p) b = true) : disciplined p (a ++ b) = true := by
  induction a generalizing p with
  | nil => exact h2
  | cons e a ih =>
    simp only [disciplined, List.cons_append, Bool.and_eq_true] at *
    exact ⟨h1.1, ih _ h1.2 h2⟩

theorem disciplined_sound (p : Pins) (es : List EventP) (h : disciplined p es = true) :
      (∀ pre, pre <+: es → ¬ ((pre.foldl Pins.apply p).lCs = some true ∧ (pre.foldl Pins.apply p).tCs = some true)) ∧
      (∀ pre, pre ++ [.set .lWr false] <+: es → (pre.foldl Pins.apply p).lCs = some true) ∧
      (∀ pre, pre ++ [.set .tClk true] <+: es → (pre.foldl Pins.apply p).tCs = some true) := by
  induction es generalizing p with
  | nil =>
    refine ⟨fun pre hp => ?_, fun pre hp => ?_, fun pre hp => ?_⟩
    · rw [List.prefix_nil] at hp; subst hp; simp [disciplined, selectOk] at h; simp only [List.foldl_nil]; tauto
    · simp at hp
    · simp at hp
  | cons e es ih =>
    simp only [disciplined, Bool.and_eq_true] at h
    obtain ⟨i1, i2, i3⟩ := ih _ h.2
    refine ⟨fun pre hp => ?_, fun pre hp => ?_, fun pre hp => ?_⟩
    · cases pre with
      | nil => have := h.1.1; simp [selectOk] at this; simp only [List.foldl_nil]; tauto
      | cons a pre => rw [List.cons_prefix_cons] at hp; obtain ⟨rfl, hp⟩ := hp; exact i1 pre hp
    · cases pre with
      | nil => rw [List.nil_append, List.cons_prefix_cons] at hp; obtain ⟨rfl, -⟩ := hp; have := h.1.2; simpa
          [edgeOk] using this
      | cons a pre => rw [List.cons_append, List.cons_prefix_cons] at hp; obtain ⟨rfl, hp⟩ := hp; exact i2 pre hp
    · cases pre with
      | nil => rw [List.nil_append, List.cons_prefix_cons] at hp; obtain ⟨rfl, -⟩ := hp; have := h.1.2; simpa
          [edgeOk] using this
      | cons a pre => rw [List.cons_append, List.cons_prefix_cons] at hp; obtain ⟨rfl, hp⟩ := hp; exact i3 pre hp

theorem disciplined_event (p : Pins) (e : LcdEvent) (ht : p.tCs ≠ some true) (h : isBusWrite e = true → p.lCs =
    some true) : disciplined p e.levelP = true := by
  cases e
  case lcdCmd c => simp [LcdEvent.levelP, levelWL, disciplined, selectOk, edgeOk, Pins.apply, Pins.set, ht, h rfl]
  case lcdData c => simp [LcdEvent.levelP, levelWL, disciplined, selectOk, edgeOk, Pins.apply, Pins.set, ht, h rfl]
  case lcdPix c => simp [LcdEvent.levelP, levelWL, disciplined, selectOk, edgeOk, Pins.apply, Pins.set, ht, h rfl]
  case lcdWrite dc v => simp [LcdEvent.levelP, levelWL, disciplined, selectOk, edgeOk, Pins.apply, Pins.set, ht, h rfl]
  case lcdRpt => simp [LcdEvent.levelP, levelPS, disciplined, selectOk, edgeOk, Pins.apply, Pins.set, ht, h rfl]
  all_goals simp [LcdEvent.levelP, disciplined, selectOk, edgeOk, Pins.apply, Pins.set, ht]

theorem disciplined_writes (es : List LcdEvent) (p : Pins) (ht : p.tCs ≠ some true) (hl : p.lCs = some true) (h :
    es.all isWriteOrDelay = true) : disciplined p (es.flatMap LcdEvent.levelP) =
        true ∧ ((es.flatMap LcdEvent.levelP).foldl Pins.apply p).lCs = some true := by
  induction es generalizing p with
  | nil => exact ⟨by simp [disciplined, selectOk, ht], hl⟩
  | cons e es ih =>
    rw [List.all_cons, Bool.and_eq_true] at h
    have hq := Pins.apply_touch p e
    have hl' : (e.levelP.foldl Pins.apply p).lCs = some true := by
      rcases Bool.or_eq_true_iff.1 h.1 with h | h
      · rw [(busWrite_lines p e h).1]; exact hl
      · cases e <;> first | exact hl | cases h
    have := ih (e.levelP.foldl Pins.apply p) (by rw [hq.1]; exact ht) hl' h.2
    rw [List.flatMap_cons, List.foldl_append]
    exact ⟨disciplined_append _ _ _ (disciplined_event p e ht fun _ => hl) this.1, this.2⟩

theorem session_disciplined (ps : List EventP) (p : Pins) (h : ps.all sessionEvent = true) (hl : p.lCs ≠ some true)
    (ht : p.tCs = some true) :
   disciplined p ps = true ∧ (ps.foldl Pins.apply p).lCs = p.lCs := by
  induction ps generalizing p with
  | nil => exact ⟨by simp [disciplined, selectOk, hl], rfl⟩
  | cons e es ih =>
    rw [List.all_cons, Bool.and_eq_true] at h
    have hk : (p.apply e).lCs = p.lCs ∧ (p.apply e).tCs = p.tCs ∧ edgeOk p e = true := by
      cases e with
      | set l v => cases l <;> first | (cases v <;> simp [Pins.apply, Pins.set, edgeOk, ht]; done) | cases h.1
      | _ => first | cases h.1; done | exact ⟨rfl, rfl, rfl⟩
    have := ih (p.apply e) h.2 (by rw [hk.1]; exact hl) (by rw [hk.2.1]; exact ht)
    refine ⟨?_, by rw [List.foldl_cons, this.2, hk.1]⟩
    simp only [disciplined, Bool.and_eq_true]
    exact ⟨⟨by simp [selectOk, hl], hk.2.2⟩, this.1⟩

theorem samples_disciplined (ps : List EventP) (p : Pins) (h : ps.all sampleEvent = true) (hl : p.lCs ≠ some true) :
    disciplined p ps = true := by
  induction ps with
  | nil => simp [disciplined, selectOk, hl]
  | cons e es ih =>
    rw [List.all_cons, Bool.and_eq_true] at h
    cases e <;> first | cases h.1; done | skip
    simp only [disciplined, Bool.and_eq_true]
    exact ⟨⟨by simp [selectOk, hl], rfl⟩, ih h.2⟩

theorem disciplined_other (es : List LcdEvent) (p : Pins) (ht : p.tCs ≠ some true) (h : es.all
    (fun e => !isBusWrite e) = true) : disciplined p (es.flatMap LcdEvent.levelP) = true := by
  induction es generalizing p with
  | nil => simp [disciplined, selectOk, ht]
  | cons e es ih =>
    rw [List.all_cons, Bool.and_eq_true] at h
    rw [List.flatMap_cons]
    refine disciplined_append _ _ _ (disciplined_event p e ht fun hb => by rw [hb] at h; simp at h) (ih _ ?_ h.2)
    rw [(Pins.apply_touch p e).1]; exact ht

theorem disciplined_script (a mid b : List LcdEvent) (p : Pins) (ht : p.tCs ≠ some true) (ha : a.all
    (fun e => !isBusWrite e) = true) (hb : b.all (fun e => !isBusWrite e) = true)
   (hm : mid.all isWriteOrDelay = true) (hl :
       ((a.flatMap LcdEvent.levelP).foldl Pins.apply p).lCs = some true) :
   disciplined p ((a ++ mid ++ b).flatMap LcdEvent.levelP) = true := by
  have h1 := (Pins.foldl_touch a p).1
  have h2 := (Pins.foldl_touch (a ++ mid) p).1
  have h3 := disciplined_writes mid ((a.flatMap LcdEvent.levelP).foldl Pins.apply p) (by rw [h1]; exact ht) hl hm
  rw [List.flatMap_append, List.flatMap_append]
  rw [List.flatMap_append] at h2
  refine disciplined_append _ _ _ (disciplined_append _ _ _ (disciplined_other a p ht ha) h3.1)
      (disciplined_other b _ ?_ hb)
  rw [h2]; exact ht

theorem Inv.deselected (s : State) (h : Inv s) : Deselected s := by
  obtain ⟨-, hL, hT⟩ := h
  constructor
  · unfold LcdLinesOk at hL; split at hL <;> rw [hL.2.1] <;> simp
  · unfold TouchOk at hT; split at hT <;> rw [hT.1] <;> simp

end Sys2Proof.Machine
end

