-- ==== Sys2Proof/Laws/Mapper.lean ====
section
/-!
SUPPORT. The arithmetic of CoordinateMapper (43_coordinate_mapper.md R231, R234, R238, R239, R243).
-/

namespace Sys2Proof.Machine

theorem oriOf_bits (f : Byte) : swapXY (oriOf f) = f.getLsbD 0 ∧ reverseX (oriOf f) = f.getLsbD 1 ∧ reverseY
    (oriOf f) = f.getLsbD 2 := by
  simp [oriOf, swapXY, reverseX, reverseY]

theorem mirror_ofNat (x : Nat) (h : x ≤ 4095) : mirror (BitVec.ofNat 12 x) = BitVec.ofNat 12 (4095 - x) := by
  apply BitVec.eq_of_toNat_eq
  simp only [mirror, BitVec.toNat_sub, BitVec.toNat_ofNat]
  omega

theorem applyCal_mono (v w : Raw) (sc off : Word) (d : Nat) (h : v.toNat ≤ w.toNat) :
    applyCal v sc off d ≤ applyCal w sc off d := by
  unfold applyCal clampInt mapWork
  have : v.toNat * sc.toNat / 65536 ≤ w.toNat * sc.toNat / 65536 := Nat.div_le_div_right (Nat.mul_le_mul_right _ h)
  simp only
  omega

/-- A scale fits its register (R243). -/
theorem calScale_fits (low high m d : Nat) (hd : d ≤ 65536) (hm : 2 * m + 1 ≤ d) : (d - 1 - 2 * m) * 65536 /
    (high - low) < 4294967296 := by
  have : (d - 1 - 2 * m) * 65536 / (high - low) ≤ (d - 1 - 2 * m) * 65536 := Nat.div_le_self _ _
  omega

/-- An offset fits its register (R243). -/
theorem calOffset_fits (low sc m : Nat) (hlow : low ≤ 4095) (hm : m < 65536) (hs : sc < 4294967296) : 
   (BitVec.ofInt 32 (((low * sc / 65536 : Nat) : Int) - m)).toInt = ((low * sc / 65536 : Nat) : Int) - m := by
  have : low * sc ≤ 4095 * 4294967295 := Nat.mul_le_mul hlow (by omega)
  have : low * sc / 65536 ≤ 4095 * 4294967295 / 65536 := Nat.div_le_div_right this
  rw [BitVec.toInt_ofInt]
  generalize low * sc / 65536 = e at *
  rw [Int.bmod_eq_of_le] <;> omega

theorem calibration_axis (low high m d : Nat) (hh : high ≤ 4095) (hl : low < high) (hm : 2 * m ≤ d - 1) (hd :
    dimOk d = true) (hm16 : m < 65536) :
   let sc := calScale (spanWork low high m d)
   sc = (d - 1 - 2 * m) * 65536 / (high - low) ∧ sc < 4294967296 ∧ axisOk low high m d = true ∧
   (BitVec.ofInt 32 (calOffset low sc m)).toInt = ((low * sc / 65536 : Nat) : Int) - m := by
  intro sc
  simp only [dimOk, Bool.and_eq_true, decide_eq_true_eq] at hd
  have h1 : sc = (d - 1 - 2 * m) * 65536 / (high - low) := rfl
  have h2 : sc < 4294967296 := by rw [h1]; exact calScale_fits low high m d hd.2 (by omega)
  refine ⟨h1, h2, ?_, calOffset_fits low sc m (by omega) hm16 h2⟩
  simp only [axisOk, Bool.and_eq_true, decide_eq_true_eq]; omega

/-- Where the two readings of a calibrated axis land (R239). -/
theorem calibration_hits (low high m d : Nat) (hh : high ≤ 4095) (hl : low < high) (hm : 2 * m ≤ d - 1) (hd :
    dimOk d = true) (hm16 : m < 65536) :
   let sc := calScale (spanWork low high m d)
   let f := fun v : Nat => applyCal (BitVec.ofNat 12 v) (BitVec.ofNat 32 sc) (BitVec.ofInt 32 (calOffset low sc m)) d
   f low = m ∧ (f high = d - 1 - m ∨ f high + 1 = d - 1 - m) := by
  intro sc f
  have ax := calibration_axis low high m d hh hl hm hd hm16
  have h1 : sc = (d - 1 - 2 * m) * 65536 / (high - low) := ax.1
  have h2 : sc < 4294967296 := ax.2.1
  have h4 : (BitVec.ofInt 32 (calOffset low sc m)).toInt = ((low * sc / 65536 : Nat) : Int) - m := ax.2.2.2
  clear ax
  clear_value sc
  have hsc : (BitVec.ofNat 32 sc).toNat = sc := by rw [BitVec.toNat_ofNat]; exact Nat.mod_eq_of_lt h2
  have hv : ∀ v, v ≤ 4095 → (BitVec.ofNat 12 v).toNat = v := by intro v hv; rw [BitVec.toNat_ofNat]; omega
  simp only [dimOk, Bool.and_eq_true, decide_eq_true_eq] at hd
  have e : ∀ v, v ≤ 4095 → f v = (clampInt (((v * sc / 65536 : Nat) : Int) - (((low * sc / 65536 : Nat) :
      Int) - m)) 0 ((d : Int) - 1)).toNat := by
    intro v hv'
    simp only [f, applyCal, mapWork, h4, hsc, hv v hv']
  rw [e low (by omega), e high hh]
  have hr : 0 < high - low := by omega
  have hdiv : sc * (high - low) ≤ (d - 1 - 2*m) * 65536 := by rw [h1]; exact Nat.div_mul_le_self _ _
  have hdiv2 : (d - 1 - 2*m) * 65536 < sc * (high - low) + (high - low) := by
    have := Nat.lt_div_mul_add (a := (d - 1 - 2*m) * 65536) hr
    rw [← h1] at this; exact this
  have hs : high * sc = low * sc + sc * (high - low) := by
    rw [Nat.mul_comm sc, ← Nat.add_mul]; congr 1; omega
  rw [hs]
  generalize sc * (high - low) = z at *
  generalize low * sc = q at *
  unfold clampInt
  constructor <;> omega

end Sys2Proof.Machine
end

