-- ==== Sys2Proof/Laws/Poll.lean ====
section
/-!
SUPPORT. Denoise on supplied equal answers, and the paths of TCH.POLL (42_touch_sampler.md R199, R206).
-/

namespace Sys2Proof.Machine

/-- A touch operation that keeps `prev_pressed` changes the touch part only (R190). -/
theorem TouchRun.part_same {es s u} (h : TouchRun es s u) (r : Result) :  (u.setPressed s.prevPressed).finish r =
    touchPart s ((u.setPressed s.prevPressed).finish r) := by
  have := h.part s.prevPressed r
  exact this

theorem fillRing_supplied (n : Nat) (ch : Channel) (g : Ring) (s : State) (r : Raw) (rest : List Bool) (h :
    s.cfg.respSkip ≤ 4)
   (ht : s.tdi = (List.replicate n (responseBits r)).flatten ++ rest) :
   (fillRing n ch g s).1 = { g with entries := g.entries ++ List.replicate n r, sum := g.sum + n * r.toNat } ∧
       (fillRing n ch g s).2.tdi = rest := by
  induction n generalizing g s with
  | zero => simp [fillRing]; simpa using ht
  | succ n ih =>
    rw [List.replicate_succ, List.flatten_cons, List.append_assoc] at ht
    obtain ⟨e1, e2, -⟩ := exchange_supplied (channelCommand s.cfg ch) s r _ h ht
    have hc := (exchange_frame (channelCommand s.cfg ch) s).cfg
    rw [fillRing, readChannel]
    generalize exchange (channelCommand s.cfg ch) s = a at *
    have := ih { g with entries := g.entries ++ [a.1], sum := g.sum + a.1.toNat } (a.2.setRing
        (some (Ring.filling { g with entries := g.entries ++ [a.1], sum := g.sum + a.1.toNat }))) (by simpa [hc] using h)
            (by simpa using e2)
    refine ⟨this.1.trans ?_, this.2⟩
    subst e1
    simp only [List.replicate_succ, List.append_assoc, List.singleton_append, Nat.add_mul, Nat.one_mul]
    congr 1; omega

theorem windowOk_replicate (c : Config) (r : Raw) (hN : 1 ≤ c.ringN) : windowOk c (List.replicate c.ringN r) 0 =
    true ∧ windowMean c (List.replicate c.ringN r) 0 = r.toNat := by
  have hm : windowMean c (List.replicate c.ringN r) 0 = r.toNat := by
    simp [windowMean, ringWindow]
    exact Nat.mul_div_cancel_left _ hN
  refine ⟨?_, hm⟩
  rw [windowOk, hm]
  simp [ringWindow]

theorem attempts_accepted (n a : Nat) (ch : Channel) (g : Ring) (s : State)
    (h : ringOk s.cfg g (ringMean s.cfg g) = true) :
    attempts n a ch g s = (ringMeanRaw s.cfg g, (checkedAt a g s).setFsm .accepted) := by
  cases n with
  | zero => rw [attempts_zero, if_pos h]
  | succ n => rw [attempts_succ, if_pos h]

theorem denoise_supplied (ch : Channel) (s : State) (r : Raw) (rest : List Bool) (hN : 1 ≤ s.cfg.ringN) (h :
    s.cfg.respSkip ≤ 4)
   (ht : s.tdi = (List.replicate s.cfg.ringN (responseBits r)).flatten ++ rest) :
   (denoise ch s).1 = r ∧ (denoise ch s).2.tdi = rest ∧ TouchRun (readings s.cfg ch
       (List.replicate s.cfg.ringN r)) s (denoise ch s).2 := by
  obtain ⟨f, f1, f2, f3, f4, f5, -⟩ := fillRing_spec s.cfg.ringN ch .empty (denoiseBegin s)
  have hcfg : (fillRing s.cfg.ringN ch .empty (denoiseBegin s)).2.cfg = s.cfg := f3.frame.cfg
  have hs := fillRing_supplied s.cfg.ringN ch .empty (denoiseBegin s) r rest h ht
  have hrun := (denoiseBegin_run s).trans f3
  have hf : f = List.replicate s.cfg.ringN r := by
    have h1 := hs.1; rw [f2] at h1
    have := congrArg Ring.entries h1
    simpa [Ring.empty] using this
  subst hf
  unfold denoise denoiseRun
  generalize fillRing s.cfg.ringN ch .empty (denoiseBegin s) = a at *
  have hh : holds a.2.cfg a.1 (ringWindow a.2.cfg (List.replicate s.cfg.ringN r) 0) := by
    rw [hcfg, f2]
    refine ⟨by simp [Ring.empty], hN, by simp [Ring.empty], ?_⟩
    simp [Ring.empty, ringWindow]
  have hm := ringMeanRaw_toNat _ _ _ _ hh
  have hok := hh.check.2
  rw [hcfg] at hok hm
  have := windowOk_replicate s.cfg r hN
  rw [attempts_accepted]
  · refine ⟨BitVec.eq_of_toNat_eq ?_, hs.2, ?_⟩
    · dsimp only; rw [hcfg, hm, this.2]
    · dsimp only
      have k0 : TouchRun [] a.2 (checkedAt 1 a.1 a.2) := TouchRun.setWork a.2 _
      generalize checkedAt 1 a.1 a.2 = v at *
      have k1 := TouchRun.setFsm v .accepted
      generalize v.setFsm .accepted = v at *
      have k2 : TouchRun [] v (v.setRing none) := TouchRun.setWork v _
      generalize v.setRing none = v at *
      have k := hrun.trans (k0.trans (k1.trans (k2.trans (TouchRun.setFsm v .idle))))
      rw [List.append_nil, List.append_nil, List.append_nil, List.append_nil, List.nil_append] at k
      exact k
  · rw [hcfg, hok]; exact this.1

/-- TCH.POLL from an idle, initialised block: the first check, and with contact the session and the second check
    (R206). -/
theorem execTchPoll_cases {s : State} (h1 : s.busy = false) (h2 : s.tchReady = true) (hN : 1 ≤ s.cfg.ringN) :
  ∃ b u, (∀ b' rest, s.rdy = b' :: rest → b = b') ∧
    if b then 
      ∃ xs ys rx ry r b2, IsDenoise s.cfg xs rx ∧ IsDenoise s.cfg ys ry ∧
      TouchRun ([.tchReady true, .tchSel] ++ readings s.cfg .x xs ++ readings s.cfg .y ys ++
          [.tchXchg s.cfg.cmdTouchPd r, .tchReady b2, .tchDesel]) s u ∧
      u.pin.tCs = some false ∧ (∀ b' b2' rest, s.rdy = b' :: b2' :: rest → b2 = b2' ∧ u.rdy = rest) ∧
      exec .tchPoll s = .next ((u.setPressed b2).finish
          (if b2 then
            .touch {
              pressed := true
              x := some (applyCal (orient rx ry s.ori).1 s.cal.scaleX s.cal.offsetX s.tdim.x)
              y := some (applyCal (orient rx ry s.ori).2 s.cal.scaleY s.cal.offsetY s.tdim.y)
              again := s.prevPressed } (some (rx, ry))
          else .touch releasedEvent none))
    else TouchRun [.tchReady false] s u ∧ u.pin.tCs = s.pin.tCs ∧ exec .tchPoll s = .next
        ((u.setPressed false).finish (.touch releasedEvent none)) := by
  have g1 : (!(s.setBusy true).tchReady) = false := by simp [h2]
  have he : exec .tchPoll s = (if (tchReadySample ((s.setBusy true).setPollStage .firstCheck)).1 then
      let a := pollSession (tchReadySample ((s.setBusy true).setPollStage .firstCheck)).2
      if a.1.2.2 then pollPressed a.1.1 a.1.2.1 (a.2.setPollStage .mapping) else pollReleased a.2
    else pollReleased (tchReadySample ((s.setBusy true).setPollStage .firstCheck)).2) := by
    change execTchPoll s = _
    unfold execTchPoll
    rw [issue_idle _ _ h1, g1, refuseIf_false]
  have r0 := (TouchRun.setWork (s.setBusy true) _).trans (tchReadySample_run
      ((s.setBusy true).setPollStage .firstCheck))
  have hsup := tchReadySample_supplied ((s.setBusy true).setPollStage .firstCheck)
  have hc := tchReadySample_tCs ((s.setBusy true).setPollStage .firstCheck)
  rw [he]
  clear he
  generalize tchReadySample ((s.setBusy true).setPollStage .firstCheck) = a at *
  obtain ⟨b, u⟩ := a
  dsimp only at *
  cases b with
  | false =>
    refine ⟨false, u.setBusy s.busy, fun b' rest h => (hsup b' rest h).1, ?_⟩
    rw [if_neg (by simp)]
    refine ⟨by simpa using r0.setBusy, hc, ?_⟩
    rw [if_neg (by simp)]
    rfl
  | true =>
    have hcfg : u.cfg = s.cfg := r0.frame.cfg
    obtain ⟨xs, ys, r, x1, x2, x3, x4, x5⟩ := pollSession_spec u (by rw [hcfg]; exact hN)
    rw [hcfg] at x1 x2 x3
    rw [if_pos rfl]
    have hrun := r0.trans x3
    generalize pollSession u = p at *
    obtain ⟨⟨rx, ry, b2⟩, v⟩ := p
    dsimp only at *
    refine ⟨true, v.setBusy s.busy, fun b' rest h => (hsup b' rest h).1, ?_⟩
    rw [if_pos rfl]
    have hrun2 := hrun.setBusy
    obtain ⟨f1, f2, f3, f4, f5, f6, f7, f8, f9, f10, f11, f12, f13⟩ := hrun.frame
    refine ⟨xs, ys, rx, ry, r, b2, x1, x2, by simpa using hrun2, x4, ?_, ?_⟩
    · intro b' b2' rest h
      obtain ⟨k1, k2, -⟩ := hsup b' _ h
      exact x5 b2' rest k2
    · cases b2 with
      | false => rfl
      | true =>
        rw [if_pos rfl, if_pos rfl]
        unfold pollPressed complete
        dsimp only
        congr 1
        have q1 : v.ori = s.ori := f2
        have q2 : v.cal = s.cal := f1
        have q3 : v.tdim = s.tdim := f3
        have q4 : v.prevPressed = s.prevPressed := f4
        apply State.ext_fields <;> simp [q1, q2, q3, q4]

end Sys2Proof.Machine
end

