-- ==== Sys2Proof/Laws/Refuse.lean ====
section
/-!
SUPPORT. A table of refusals and a meaning that follows it, check by check (60_exceptions.md R276, R278).
-/

namespace Sys2Proof.Machine

/-- The outcome refuses for the reason the table gives, and completes where it gives none. -/
def Agree (o : Option Refusal) (out : Out) : Prop := (∀ r, o = some r → out = .refused r) ∧ (o = none → ∃ t, out =
    .next t)

theorem Agree.stop (r : Refusal) : Agree (some r) (.refused r) := ⟨fun _ h => by cases h; rfl, fun h => by cases h⟩

theorem Agree.go (t : State) : Agree none (.next t) := ⟨fun _ h => (by cases h), fun _ => ⟨t, rfl⟩⟩

theorem Agree.issue {s : State} {body : State → Out} {o} (h : s.busy = false → Agree o (body (s.setBusy true))) :
    Agree (if s.busy then some .busy else o) (issue s body) := by
  cases hb : s.busy
  · rw [issue_idle _ _ hb]; exact h hb
  · rw [issue_busy _ _ hb]; exact Agree.stop _

theorem Agree.refuse {bad : Bool} {why : Refusal} {go : Out} {o} (h : bad = false → Agree o go) : Agree
    (if bad then some why else o) (refuseIf bad why go) := by
  cases bad
  · exact h rfl
  · exact Agree.stop _

theorem Agree.congr {o o'} {out : Out} (h : Agree o out) (e : o = o') : Agree o' out := e ▸ h

theorem Agree.bus {s : State} {body : State → Out} {o} (h : Agree o (body (s.setBusy true))) :
    Agree
      (if s.busy then some .busy
      else if !s.lcdReady then some .notInitialised
      else if decide (s.pin.lCs ≠ some true) then some .notSelected
      else o)
      (withBus s body) :=
  .issue fun _ => .refuse fun _ => .refuse fun _ => h

end Sys2Proof.Machine
end

