-- ==== Sys2Proof/Tests/Slice0.lean ====
section
/-!
SUPPORT. Small tests, each of one step, and for every statement with hypotheses a state and operands that meet them all.
Expected results are the vectors of spec/95_test_vectors.md (named in each comment) or hand calculation from the rule
named; none was taken from the model.
-/

namespace Sys2Proof.Tests

open Sys2Proof.Machine

/-! ### Configurations and states -/

/-- CFG-T of 95_test_vectors.md section 0. -/
def cfgT : Config :=
  { Config.usual with
    argsPllMult := [0xA1#8, 0xA2#8, 0xA3#8], argsPllEnable := [0x01#8], argsPllSwitch := [0x03#8]
    argsPclkDiv := [0xB1#8, 0xB2#8, 0xB3#8], argsGpioMode := [0xF1#8, 0xF2#8], argsPixelIf := [0x03#8]
    argsBlPwm := [0x91#8, 0x96#8] }

/-- A ring of two readings and two attempts, so that a run is short. -/
def cfgRing : Config := { cfgT with ringN := 2, maxAttempts := 2 }

/-- An idle block with nothing initialised: reset, with the configuration and the touch registers known. -/
def blank : State :=
  { State.reset with
    cfg := cfgRing
    cal := { scaleX := 7680#32, scaleY := 4352#32, offsetX := 0#32, offsetY := 0#32 }
    ori := 0#3
    tdim := { x := 480, y := 272 } }

/-- Between operations after LCD.INIT (R50). -/
def lcdUp : State :=
  { blank with
    lcdReady := true
    pin := { Pins.unset with lRst := some false, lCs := some false, lDc := some true, lWr := some true, lLe := some false,
                             dl := some 0xF800#16 }
    latch := some 0xF800#16 }

/-- The start state of vectors B1 to B6: the controller selected, a state inside a Flush. -/
def selected : State := { lcdUp with pin := { lcdUp.pin with lCs := some true } }

/-- Between operations after `TCH.INIT 480, 272, 0` (R51). -/
def tchUp : State :=
  { blank with
    tchReady := true
    pin := { Pins.unset with tCs := some false, tClk := some false, tDo := some false } }

/-- Both units initialised. -/
def bothUp : State :=
  { lcdUp with
    tchReady := true
    pin := { lcdUp.pin with tCs := some false, tClk := some false, tDo := some false } }

/-- `s` with the environment answering readings `rs` on `T_DI` and `bs` on `T_RDY`. -/
def answering (s : State) (rs : List Raw) (bs : List Bool) : State :=
  { s with tdi := rs.flatMap responseBits, rdy := bs }

/-- What a completed step left in a field. -/
def left {α : Type} (o : Out) (f : State → α) : Option α :=
  match o with
  | .next t => some (f t)
  | .fault _ | .refused _ => none

/-- Why a step was refused. -/
def why (o : Out) : Option Refusal :=
  match o with
  | .refused r => some r
  | .next _ | .fault _ => none

/-! ### Well-formedness: each check refuses an ill-formed term -/

theorem test_wf_tchInit : (Instr.tchInit 0 272 0#8).wf cfgT = false := by decide
theorem test_wf_tchInit_high : (Instr.tchInit 480 65537 0#8).wf cfgT = false := by decide
theorem test_wf_mapOrient : (Instr.mapOrient 4096 0 0#8).wf cfgT = false := by decide
theorem test_wf_mapApplycal_value : (Instr.mapApplycal 4096 0#32 0#32 480).wf cfgT = false := by decide
theorem test_wf_mapApplycal_dimension : (Instr.mapApplycal 0 0#32 0#32 0).wf cfgT = false := by decide
theorem test_wf_mapCalibrate : (Instr.mapCalibrate 100 4096 200 3900 10#16).wf cfgT = false := by decide
theorem test_wf_cmdPllCtrl : (Instr.cmdPllCtrl [0x02#8]).wf cfgT = false := by decide
theorem test_wf_cmdPllMult : (Instr.cmdPllMult (some [0xA1#8, 0xA2#8])).wf cfgT = false := by decide
theorem test_wf_other_arguments : (Instr.cmdSoftReset (some [0#8])).wf cfgT = false ∧
    (Instr.cmdPclkDiv (some [])).wf cfgT = false ∧ (Instr.cmdPanelSpec (some [0#8])).wf cfgT = false ∧
    (Instr.cmdHsync (some [0#8])).wf cfgT = false ∧ (Instr.cmdVsync (some [0#8])).wf cfgT = false ∧
    (Instr.cmdGpioMode (some [])).wf cfgT = false ∧ (Instr.cmdPixelIf (some [])).wf cfgT = false ∧
    (Instr.cmdMemWrite (some [0#8])).wf cfgT = false ∧ (Instr.cmdDisplayOn (some [0#8])).wf cfgT = false ∧
    (Instr.cmdBlPwm (some [0x91#8])).wf cfgT = false := by decide
/-- A bound pair out of order, and three bytes. -/
theorem test_wf_cmdColAddr : (Instr.cmdColAddr [1#8, 5#8] [1#8, 4#8]).wf cfgT = false ∧
    (Instr.cmdColAddr [0#8, 1#8] [2#8]).wf cfgT = false := by decide
theorem test_wf_cmdRowAddr : (Instr.cmdRowAddr [1#8, 0#8] [0#8, 255#8]).wf cfgT = false := by decide
theorem test_wf_good : (Instr.mapCalibrate 0 4095 0 4095 0#16).wf cfgT = true ∧
    (Instr.cmdRowAddr [0#8, 255#8] [1#8, 0#8]).wf cfgT = true ∧ (Instr.cmdPllCtrl [0x03#8]).wf cfgT = true ∧
    Instr.cmdPllMult.wf cfgT = true := by decide

/-! ### Decoding: words written out from R92, R104, R106, R111, R100 -/

theorem test_decode_btpPulse : decode cfgT (.op 0b0000#4 .zero) = .ok .btpPulse := by decide
theorem test_decode_btpWlb : decode cfgT (.op 0b0001#4 { Ports.zero with value := 0x002C#16 }) = .ok (.btpWlb 0x002C#16) := by
  decide
theorem test_decode_lcdInit : decode cfgT (.op 0b0010#4 .zero) = .ok .lcdInit := by decide
theorem test_decode_lcdFlush :
    decode cfgT (.op 0b0011#4 { Ports.zero with region := ⟨0xFFFE#16, 0xFFFF#16, 2#16, 1#16⟩, buf := [0x1000#16] }) =
      .ok (.lcdFlush ⟨0xFFFE#16, 0xFFFF#16, 2#16, 1#16⟩ [0x1000#16]) := by decide
theorem test_decode_tchInit :
    decode cfgT (.op 0b0100#4 { Ports.zero with dimX := 800, dimY := 480, flags := 3#8 }) = .ok (.tchInit 800 480 3#8) := by
  decide
theorem test_decode_tchReadch : decode cfgT (.op 0b0101#4 { Ports.zero with ch := true }) = .ok (.tchReadch .y) := by decide
theorem test_decode_tchDenoise : decode cfgT (.op 0b0110#4 .zero) = .ok (.tchDenoise .x) := by decide
theorem test_decode_tchPoll : decode cfgT (.op 0b0111#4 .zero) = .ok .tchPoll := by decide
theorem test_decode_mapOrient :
    decode cfgT (.op 0b1000#4 { Ports.zero with rawX := 100, rawY := 200, flags := 3#8 }) = .ok (.mapOrient 100 200 3#8) := by
  decide
theorem test_decode_mapApplycal :
    decode cfgT (.op 0b1001#4 { Ports.zero with raw := 4000, scale := 7713#32, offset := 1#32, dim := 480 }) =
      .ok (.mapApplycal 4000 7713#32 1#32 480) := by decide
theorem test_decode_mapCalibrate :
    decode cfgT (.op 0b1010#4
      { Ports.zero with xlow := 100, xhigh := 4000, ylow := 200, yhigh := 3900, margin := 10#16 }) =
      .ok (.mapCalibrate 100 4000 200 3900 10#16) := by decide
theorem test_decode_sysTick : decode cfgT (.op 0b1011#4 .zero) = .ok .sysTick := by decide
theorem test_decode_reserved :
    decode cfgT (.op 0b1100#4 .zero) = .ok .reservedC ∧ decode cfgT (.op 0b1101#4 .zero) = .ok .reservedD ∧
    decode cfgT (.op 0b1110#4 .zero) = .ok .reservedE ∧ decode cfgT (.op 0b1111#4 .zero) = .ok .reservedF := by decide
theorem test_decode_clock_commands :
    decode cfgT (.lcf 0xE2#8 [0xA1#8, 0xA2#8, 0xA3#8]) = .ok .cmdPllMult ∧
    decode cfgT (.lcf 0xE0#8 [0x01#8]) = .ok (.cmdPllCtrl [0x01#8]) ∧
    decode cfgT (.lcf 0x01#8 []) = .ok .cmdSoftReset ∧
    decode cfgT (.lcf 0xE6#8 [0xB1#8, 0xB2#8, 0xB3#8]) = .ok .cmdPclkDiv := by decide
theorem test_decode_panel_commands :
    decode cfgT (.lcf 0xB0#8 []) = .ok .cmdPanelSpec ∧ decode cfgT (.lcf 0xB4#8 []) = .ok .cmdHsync ∧
    decode cfgT (.lcf 0xB6#8 []) = .ok .cmdVsync ∧ decode cfgT (.lcf 0xB8#8 [0xF1#8, 0xF2#8]) = .ok .cmdGpioMode ∧
    decode cfgT (.lcf 0xF0#8 [0x03#8]) = .ok .cmdPixelIf := by decide
theorem test_decode_window_commands :
    decode cfgT (.lcf 0x2A#8 [0x01#8, 0x00#8, 0x01#8, 0x2C#8]) = .ok (.cmdColAddr [0x01#8, 0x00#8] [0x01#8, 0x2C#8]) ∧
    decode cfgT (.lcf 0x2B#8 [0x00#8, 0x01#8, 0x01#8, 0x0F#8]) = .ok (.cmdRowAddr [0x00#8, 0x01#8] [0x01#8, 0x0F#8]) ∧
    decode cfgT (.lcf 0x2C#8 []) = .ok .cmdMemWrite := by decide
theorem test_decode_light_commands :
    decode cfgT (.lcf 0x29#8 []) = .ok .cmdDisplayOn ∧ decode cfgT (.lcf 0xBE#8 [0x91#8, 0x96#8]) = .ok .cmdBlPwm ∧
    decode cfgT (.lcf 0xD0#8 [0x0D#8]) = .ok (.cmdDynBl [0x0D#8]) := by decide
theorem test_decode_touch_bytes :
    decode cfgT (.tcb 0b11010011#8) = .ok .cmdTouchX ∧ decode cfgT (.tcb 0b10010011#8) = .ok .cmdTouchY ∧
    decode cfgT (.tcb 0b10010000#8) = .ok .cmdTouchPd := by decide
theorem test_decode_pixel : decode cfgT (.lbw 0b11111100000000000#17) = .ok (.lcdPix 0xF800#16) := by decide
theorem test_decode_repeat : decode cfgT .repeatStrobe = .ok .lcdRpt := by decide
/-- A command write is `L_DC` = 0 and `zext_16` of the command (R100). -/
theorem test_decode_command_word : decode cfgT (.lbw 0b00000000000101100#17) = .ok .cmdMemWrite ∧
    decode cfgT (.lbw 0b00000000100101100#17) = .error .notAnLcdCommand := by decide
/-- A known command decodes with bytes that no operation sends with it (R101; log entry 7). -/
theorem test_decode_any_arguments : decode cfgT (.lcf 0xE0#8 [0x02#8]) = .ok (.cmdPllCtrl [0x02#8]) ∧
    decode cfgT (.lcf 0x2C#8 [0#8]) = .ok (.cmdMemWrite (some [0#8])) ∧
    decode cfgT (.lcf 0x2A#8 [7#8]) = .ok (.cmdColAddr [7#8] []) := by decide
theorem test_decode_rejects : decode cfgT (.lcf 0x00#8 []) = .error .notAnLcdCommand ∧
    decode cfgT (.tcb 0x91#8) = .error .notATouchCommand ∧ decode cfgT (.lbw 0x00000#17) = .error .notAnLcdCommand := by decide

/-! ### The operations -/

/-- B1. -/
theorem test_btpPulse : left (exec .btpPulse selected) (fun t => (t.traceP, t.latch, t.delivered)) =
    some ([.set .lWr false, .spin .tStrobeLow, .set .lWr true], some 0xF800#16, [⟨true, 0xF800#16, .repeated⟩]) := by decide
/-- R131 and R134 at level F: one strobe; one write, its kind given by `L_DC` (log entry 8). -/
theorem test_btp_levelF : left (exec .btpPulse selected) (fun t => t.traceF) = some [.lcd .lcdRpt] ∧
    left (exec (.btpWlb 0x002C#16) selected) (fun t => t.traceF) = some [.lcd (.lcdPix 0x002C#16)] ∧
    left (exec (.btpWlb 0x002C#16) { selected with pin := { selected.pin with lDc := some false } }) (fun t =>
      (t.traceF, t.delivered)) = some ([.lcd (.lcdWrite (some false) 0x002C#16)], [⟨false, 0x002C#16, .latched⟩]) := by decide
/-- B5. -/
theorem test_btpPulse_latch : why (exec .btpPulse { selected with latch := none }) = some .latchUnknown := by decide
/-- B2. -/
theorem test_btpWlb : left (exec (.btpWlb 0x002C#16) selected) (fun t => (t.traceP, t.latch, t.pin.dl)) =
    some ([.set .lLe true, .setData 0x002C#16, .spin .tLatchSetup, .set .lLe false, .set .lWr false, .spin .tStrobeLow,
      .set .lWr true], some 0x002C#16, some 0x002C#16) := by decide
/-- B6. -/
theorem test_btpWlb_deselected : why (exec (.btpWlb 1#16) lcdUp) = some .notSelected := by decide
/-- The end state of I1, with the shortened argument lists of `cfgT`. -/
theorem test_lcdInit : left (exec .lcdInit blank) (fun t => (t.lcdReady, t.pin.lCs, t.pin.lDc, t.latch, t.pin.dl)) =
    some (true, some false, some true, some 0x0096#16, some 0x0096#16) := by decide
/-- I2: the events of the clear between the delays of S10 and S11, on a panel of 2 by 2. -/
theorem test_lcdInit_clear :
    initClear { cfgT with panelW := 2, panelH := 2, clearOnInit := true } =
      [.lcdCmd 0x2A#8, .lcdData 0#8, .lcdData 0#8, .lcdData 0#8, .lcdData 1#8, .lcdCmd 0x2B#8, .lcdData 0#8, .lcdData 0#8,
        .lcdData 0#8, .lcdData 1#8, .lcdCmd 0x2C#8, .lcdPix 0#16, .lcdRpt, .lcdRpt, .lcdRpt, .delayMs .dlyS11] := by decide
/-- F4: clipping, the stride and the row restart, on a panel of 4 by 3. -/
theorem test_lcdFlush :
    left (exec (.lcdFlush ⟨2#16, 1#16, 5#16, 3#16⟩ [0xAAAA#16, 0xAAAA#16, 0xBBBB#16, 0xBBBB#16, 0xAAAA#16, 0xAAAA#16,
      0xAAAA#16, 0xAAAA#16, 0xCCCC#16, 0xCCCC#16, 0xCCCC#16, 0xCCCC#16])
      { lcdUp with cfg := { cfgT with panelW := 4, panelH := 3 } }) (fun t => t.traceF) =
    some ([LcdEvent.lcdSel, .lcdCmd 0x2A#8, .lcdData 0#8, .lcdData 2#8, .lcdData 0#8, .lcdData 3#8, .lcdCmd 0x2B#8,
      .lcdData 0#8, .lcdData 1#8, .lcdData 0#8, .lcdData 2#8, .lcdCmd 0x2C#8, .lcdPix 0xAAAA#16, .lcdRpt,
      .lcdPix 0xAAAA#16, .lcdRpt, .lcdDesel, .flushDone].map .lcd) := by decide
/-- F12. -/
theorem test_lcdFlush_short : why (exec (.lcdFlush ⟨0#16, 0#16, 1#16, 1#16⟩ [1#16, 2#16, 3#16]) lcdUp) =
    some .bufferTooShort := by decide
/-- V3: the callback issues an operation, which is refused; the Flush completes all the same (R264, R283). -/
theorem test_lcdFlush_callback : left (exec (.lcdFlush ⟨480#16, 0#16, 500#16, 10#16⟩ [])
    { lcdUp with cfg := { cfgT with callback := .issuesOperation } }) (fun t => (t.traceF, t.busy)) =
    some ([.lcd .flushDone], false) := by decide
/-- R30: the LCD working registers live in the clear only; the sequencer is at S13 when LCD.INIT ends. -/
theorem test_lcdInit_work : (initSequence { blank with cfg := { cfgT with panelW := 2, panelH := 2, clearOnInit := true } }).work =
    { Work.idle with initStep := some 13 } := by decide
/-- T2. -/
theorem test_tchInit : left (exec (.tchInit 800 480 3#8) blank) (fun t => (t.cal, t.ori, t.tdim, t.tchReady)) =
    some (⟨12800#32, 7680#32, 0#32, 0#32⟩, 3#3, ⟨800, 480⟩, true) := by decide
/-- T5. -/
theorem test_tchInit_twice : why (exec (.tchInit 480 272 0#8) tchUp) = some .alreadyInitialised := by decide
/-- X2, first line: the bits 0,1,1,1,1,1,0,1,0,0,0,0 are the reading 2000. -/
theorem test_tchReadch : left (exec (.tchReadch .x)
    { tchUp with tdi := [false, true, true, true, true, true, false, true, false, false, false, false, true] })
      (fun t => (t.result, t.traceF, t.tdi)) =
    some (.raw 2000#12, [.tch .tchSel, .tch (.tchXchg 0xD3#8 2000#12), .tch .tchDesel], [true]) := by decide
/-- X2: 133 level-P events an exchange, and the two of the bracket. -/
theorem test_tchReadch_size : left (exec (.tchReadch .y) { tchUp with tdi := List.replicate 12 true })
    (fun t => (t.traceP.length, t.result)) = some (135, .raw 4095#12) := by
  decide +kernel
/-- R199 by hand on a ring of two: mean 2500 fails, the oldest entry 3000 is replaced by 2002, mean (2002 + 2001) / 2. -/
theorem test_tchDenoise : left (exec (.tchDenoise .y) (answering tchUp [3000#12, 2001#12, 2002#12] []))
    (fun t => (t.result, t.fsm)) = some (.raw 2001#12, .idle) := by decide
/-- The verdict at the return: the third reading leaves 1500 and 2001, so the second and last check fails (R203, R204). -/
theorem test_tchDenoise_bestEffort :
    (denoiseRun .x (answering tchUp [3000#12, 2001#12, 1500#12] [])).1 = 1750#12 ∧
    (denoiseRun .x (answering tchUp [3000#12, 2001#12, 1500#12] [])).2.fsm = .bestEffort := by decide +kernel
/-- The ring at that return, by hand: 3000 replaced by 1500, `oldest` 1, two attempts, mean 3501 / 2 (R34, R199). -/
theorem test_tchDenoise_ring : (denoiseRun .x (answering tchUp [3000#12, 2001#12, 1500#12] [])).2.work.ring =
    some { entries := [1500#12, 2001#12], sum := 3501, oldest := some 1, attempt := some 2, mean := some 1750#12 } := by
  decide +kernel
/-- Before the first reading the ring lives, its fill count 0 (R33, R199). -/
theorem test_denoiseBegin : (denoiseBegin tchUp).work.ring =
    some { entries := [], sum := 0, oldest := none, attempt := none, mean := none } ∧ (denoiseBegin tchUp).fsm = .sampling := by
  decide
/-- After the sixteen response clocks the counter is 16, and all twelve bits are in (R33, R193). -/
theorem test_exchange_position : (responsePhase 16 1 0#12 (answering tchUp [0xABC#12] [])).2.work.xchg =
    some { cmdSr := 0#8, sent := 8, resSr := some 0xABC#12, k := some 16 } := by decide
/-- In the command phase the counter has no value; after three bits of 0xD3 the shift register holds the other five (R52, R194). -/
theorem test_command_position : (commandPhase 3 0xD3#8 0 tchUp).work.xchg =
    some { cmdSr := 0x98#8, sent := 3, resSr := none, k := none } := by decide
/-- While the ring is filled R199 has written neither `oldest` nor `attempt` nor `mean` (R52). -/
theorem test_fillRing : (fillRing 1 .x .empty (answering tchUp [3000#12] [])).2.work.ring =
    some { entries := [3000#12], sum := 3000, oldest := none, attempt := none, mean := none } := by decide
/-- L3 (readings 1000 and 3000, pressed before) with a ring of two: x = 117, y = 199, repeat. -/
theorem test_tchPoll : left (exec .tchPoll { answering tchUp [1000#12, 1000#12, 3000#12, 3000#12, 0#12] [true, true] with
    prevPressed := true }) (fun t => (t.result, t.prevPressed)) =
    some (.touch ⟨true, some 117, some 199, true⟩ (some (1000#12, 3000#12)), true) := by decide +kernel
/-- L4: the second check finds no contact. -/
theorem test_tchPoll_discard : left (exec .tchPoll
    (answering tchUp [1000#12, 1000#12, 3000#12, 3000#12, 0#12] [true, false])) (fun t => (t.result, t.prevPressed)) =
    some (.touch ⟨false, none, none, false⟩ none, false) := by decide +kernel
/-- Section 2.8, flags 3 and flags 7. -/
theorem test_mapOrient : left (exec (.mapOrient 100 200 3#8) blank) (fun t => t.result) = some (.rawPair 3895#12 100#12) := by
  decide
theorem test_mapOrient_all : left (exec (.mapOrient 100 200 7#8) blank) (fun t => t.result) =
    some (.rawPair 3895#12 3995#12) := by decide
/-- A1 and A11. -/
theorem test_mapApplycal : left (exec (.mapApplycal 4000 7713#32 1#32 480) blank) (fun t => t.result) = some (.pixel 469) := by
  decide
theorem test_mapApplycal_widest : left (exec (.mapApplycal 4095 0xFFFFFFFF#32 0x80000000#32 65536) blank)
    (fun t => t.result) = some (.pixel 65535) := by decide
/-- K1 and K2. -/
theorem test_mapCalibrate : left (exec (.mapCalibrate 100 4000 200 3900 10#16) tchUp) (fun t => t.cal) =
    some ⟨7713#32, 4445#32, 1#32, 3#32⟩ := by decide
/-- The third refusal below the table of section 2.10. -/
theorem test_mapCalibrate_margin : why (exec (.mapCalibrate 100 4000 200 3900 136#16) tchUp) =
    some .calibrationRange := by decide
/-- Section 2.11. -/
theorem test_sysTick : left (exec .sysTick lcdUp) (fun t => (t.traceF, t.traceP, t.latch, t.result)) =
    some ([], [], some 0xF800#16, .nothing) := by decide
theorem test_reserved : why (exec .reservedC blank) = some .reservedOp ∧ why (exec .reservedD blank) = some .reservedOp ∧
    why (exec .reservedE blank) = some .reservedOp ∧ why (exec .reservedF blank) = some .reservedOp := by decide
/-- R283. -/
theorem test_busy : why (exec .sysTick { blank with busy := true }) = some .busy := by decide

/-! ### The frame rows: a command, its arguments in order, the latch at the last byte (R101, R136) -/

/-- The level-F events and the latch after a frame. -/
def frame (i : Instr) : Option (List EventF × Option Half) := left (exec i selected) fun t => (t.traceF, t.latch)

theorem test_cmdPllMult : frame .cmdPllMult =
    some ([.lcd (.lcdCmd 0xE2#8), .lcd (.lcdData 0xA1#8), .lcd (.lcdData 0xA2#8), .lcd (.lcdData 0xA3#8)], some 0xA3#16) := by
  decide
theorem test_cmdPllCtrl : frame (.cmdPllCtrl [0x03#8]) = some ([.lcd (.lcdCmd 0xE0#8), .lcd (.lcdData 0x03#8)], some 3#16) := by
  decide
/-- Arguments no operation sends are put on the bus as they are (log entry 7). -/
theorem test_cmdPllCtrl_other : frame (.cmdPllCtrl [0x02#8]) =
    some ([.lcd (.lcdCmd 0xE0#8), .lcd (.lcdData 0x02#8)], some 2#16) := by decide
/-- So is a list of another length (R101). -/
theorem test_cmdPllMult_other : frame (.cmdPllMult (some [7#8])) = some ([.lcd (.lcdCmd 0xE2#8), .lcd (.lcdData 7#8)], some 7#16) := by
  decide
theorem test_cmdSoftReset : frame .cmdSoftReset = some ([.lcd (.lcdCmd 0x01#8)], some 1#16) := by decide
theorem test_cmdPclkDiv : frame .cmdPclkDiv =
    some ([.lcd (.lcdCmd 0xE6#8), .lcd (.lcdData 0xB1#8), .lcd (.lcdData 0xB2#8), .lcd (.lcdData 0xB3#8)], some 0xB3#16) := by
  decide
theorem test_cmdPanelSpec : frame .cmdPanelSpec = some ([.lcd (.lcdCmd 0xB0#8)], some 0xB0#16) := by decide
theorem test_cmdHsync : frame .cmdHsync = some ([.lcd (.lcdCmd 0xB4#8)], some 0xB4#16) := by decide
theorem test_cmdVsync : frame .cmdVsync = some ([.lcd (.lcdCmd 0xB6#8)], some 0xB6#16) := by decide
theorem test_cmdGpioMode : frame .cmdGpioMode =
    some ([.lcd (.lcdCmd 0xB8#8), .lcd (.lcdData 0xF1#8), .lcd (.lcdData 0xF2#8)], some 0xF2#16) := by decide
theorem test_cmdPixelIf : frame .cmdPixelIf = some ([.lcd (.lcdCmd 0xF0#8), .lcd (.lcdData 0x03#8)], some 3#16) := by decide
/-- The last bytes of section 2.3: `Window(256,1,300,271)`. -/
theorem test_cmdColAddr : frame (.cmdColAddr [0x01#8, 0x00#8] [0x01#8, 0x2C#8]) =
    some ([.lcd (.lcdCmd 0x2A#8), .lcd (.lcdData 0x01#8), .lcd (.lcdData 0x00#8), .lcd (.lcdData 0x01#8),
      .lcd (.lcdData 0x2C#8)], some 0x2C#16) := by decide
theorem test_cmdRowAddr : frame (.cmdRowAddr [0x00#8, 0x01#8] [0x01#8, 0x0F#8]) =
    some ([.lcd (.lcdCmd 0x2B#8), .lcd (.lcdData 0x00#8), .lcd (.lcdData 0x01#8), .lcd (.lcdData 0x01#8),
      .lcd (.lcdData 0x0F#8)], some 0x0F#16) := by decide
theorem test_cmdMemWrite : frame .cmdMemWrite = some ([.lcd (.lcdCmd 0x2C#8)], some 0x2C#16) := by decide
theorem test_cmdDisplayOn : frame .cmdDisplayOn = some ([.lcd (.lcdCmd 0x29#8)], some 0x29#16) := by decide
theorem test_cmdBlPwm : frame .cmdBlPwm =
    some ([.lcd (.lcdCmd 0xBE#8), .lcd (.lcdData 0x91#8), .lcd (.lcdData 0x96#8)], some 0x96#16) := by decide
theorem test_cmdDynBl : frame (.cmdDynBl [0x0D#8]) = some ([.lcd (.lcdCmd 0xD0#8), .lcd (.lcdData 0x0D#8)], some 0x0D#16) := by
  decide
theorem test_lcdPix : frame (.lcdPix 0x07E0#16) = some ([.lcd (.lcdPix 0x07E0#16)], some 0x07E0#16) := by decide
theorem test_lcdRpt : left (exec .lcdRpt selected) (fun t => (t.traceF, t.traceP.length, t.latch)) =
    some ([.lcd .lcdRpt], 3, some 0xF800#16) := by decide
theorem test_lcdRpt_latch : why (exec .lcdRpt { selected with latch := none }) = some .latchUnknown := by decide
theorem test_cmdTouchX : left (exec .cmdTouchX (answering tchUp [0xABC#12] [])) (fun t => (t.result, t.traceF)) =
    some (.raw 0xABC#12, [.tch .tchSel, .tch (.tchXchg 0xD3#8 0xABC#12), .tch .tchDesel]) := by decide
theorem test_cmdTouchY : left (exec .cmdTouchY (answering tchUp [1#12] [])) (fun t => t.result) = some (.raw 1#12) := by decide
/-- R210: inside a session, its result discarded. -/
theorem test_cmdTouchPd :
    left (exec .cmdTouchPd { answering tchUp [5#12] [] with pin := { tchUp.pin with tCs := some true } })
      (fun t => (t.result, t.traceF, t.pin.tCs)) = some (.nothing, [.tch (.tchXchg 0x90#8 5#12)], some true) := by decide
/-- X1: the bits of 0xD3 and of 0x90, most significant first. -/
theorem test_commandBits : commandBits 0xD3#8 = [true, true, false, true, false, false, true, true] ∧
    commandBits 0x90#8 = [true, false, false, true, false, false, false, false] := by decide

/-! ### From reset -/

theorem test_fetch_sysTick : left (step (State.reset.withFetchWord 8 0x0B)) (fun t => t.calls) = some [] := by decide
theorem test_fetch_tchInit : why (step (State.reset.withFetchWord 8 0x04)) = some .operandRange := by decide
theorem test_fetch_lcdInit : left (step (State.reset.withFetchWord 8 0x02)) (fun t => (t.lcdReady, t.latch)) =
    some (true, some 0xBE#16) := by decide
theorem test_table_word : decodeTableWord 8 0x2A = some (.cmdColAddr [0#8, 0#8] [0#8, 0#8]) ∧ decodeTableWord 8 0x93 = some .cmdTouchY ∧
    decodeTableWord 24 0x1F800 = some (.lcdPix 0xF800#16) ∧ decodeTableWord 0 0 = some .lcdRpt ∧
    decodeTableWord 8 0x0F = some .reservedF ∧ decodeTableWord 8 0x91 = none := by decide
theorem test_no_call : step blank = .next blank := rfl

/-! ### Witnesses: for every statement with hypotheses, a state and operands that meet them together -/

/-- The step completed. -/
def completes (o : Out) : Bool :=
  match o with
  | .next _ => true
  | .fault _ | .refused _ => false

theorem completes_next {o : Out} (h : completes o = true) : ∃ t, o = .next t := by
  cases o <;> simp_all [completes]

/-- One pixel at the origin of the panel. -/
def origin : Region := ⟨0#16, 0#16, 0#16, 0#16⟩

/-- The last pixel of a panel of 480 by 272 (vector F6). -/
def corner : Region := ⟨479#16, 271#16, 479#16, 271#16⟩

/-- Right of the panel (vector F7), and below it (vector F9). -/
def rightOf : Region := ⟨480#16, 0#16, 500#16, 10#16⟩
def below : Region := ⟨0#16, 272#16, 10#16, 300#16⟩

theorem witness_DecodeEncodeRoundTrip : cfgT.Legal ∧ (Instr.mapCalibrate 0 4095 0 4095 0#16).wf cfgT = true ∧
    (Instr.cmdColAddr [0xFF#8, 0xFF#8] [0xFF#8, 0xFF#8]).wf cfgT = true ∧ (Instr.tchInit 1 65536 0xFF#8).wf cfgT = true := by
  decide
theorem witness_BusFormsHaveOneMeaning : decode cfgT (.lcf 0x2B#8 [0#8, 0#8, 0#8, 0#8]) = .ok (.cmdRowAddr [0#8, 0#8] [0#8, 0#8]) ∧
    decode cfgT (.tcb 0x90#8) = .ok .cmdTouchPd ∧ decode cfgT (.lbw 0x10000#17) = .ok (.lcdPix 0#16) ∧
    decode cfgT (.lbw 0x00029#17) = .ok .cmdDisplayOn ∧ decode cfgT .repeatStrobe = .ok .lcdRpt := by decide
theorem witness_ReservedCodesRefused : 0xC ≤ (0xC#4).toNat ∧ 0xC ≤ (0xF#4).toNat := by decide
/-- The clauses exclude each other by their form and by membership; the bus word of each of the two kinds. -/
theorem witness_OnlyForeignCodesRefused : 0x00#8 ∉ blank.cfg.lcdCommands ∧ 0xE0#8 ∈ blank.cfg.lcdCommands ∧
    0x91#8 ∉ blank.cfg.touchCommands ∧ 0x90#8 ∈ blank.cfg.touchCommands ∧
    (∀ code ∈ blank.cfg.lcdCommands, 0x012C#16 ≠ code.setWidth 16) ∧ 0x2C#8 ∈ blank.cfg.lcdCommands := by decide
theorem witness_StepRunsTheDecodedCall : blank.calls = [] ∧
    decode cfgT (.op 0xB#4 .zero) = .ok .sysTick ∧ decode cfgT (.tcb 0#8) = .error .notATouchCommand := by decide
theorem witness_OnlyThreeTouchBytesSent : ∃ t, exec (.tchReadch .x) (answering tchUp [1#12] []) = .next t :=
  completes_next (by decide)
theorem witness_OnlyKnownCommandsIssued : (∃ t, exec (.lcdFlush origin [1#16]) lcdUp = .next t) ∧ lcdUp.cfg.Legal ∧
    isOperation (.lcdFlush origin [1#16]) = true := ⟨completes_next (by decide), by decide, by decide⟩
theorem witness_EveryStepKeepsInvariant : Inv { bothUp with calls := [.op 0xB#4 .zero] } ∧
    ∃ t, step { bothUp with calls := [.op 0xB#4 .zero] } = .next t := ⟨by decide, completes_next (by decide)⟩
theorem witness_ChipSelectDiscipline : Inv bothUp ∧ (∃ t, exec (.lcdFlush corner [1#16]) bothUp = .next t) ∧
    ∃ t, exec .cmdTouchX (answering bothUp [1#12] []) = .next t :=
  ⟨by decide, completes_next (by decide), completes_next (by decide)⟩
theorem witness_PinsFollowTheTrace : ∃ t, exec (.btpWlb 1#16) selected = .next t := completes_next (by decide)
theorem witness_ConfigurationRegistersWritten : (∃ t, exec (.mapCalibrate 0 1 0 1 0#16) tchUp = .next t) ∧
    (∀ x y f, Instr.mapCalibrate 0 1 0 1 0#16 ≠ .tchInit x y f) ∧ (∃ t, exec .sysTick tchUp = .next t) ∧
    (∀ x y f, Instr.sysTick ≠ .tchInit x y f) ∧ ∀ a b c d m, Instr.sysTick ≠ .mapCalibrate a b c d m :=
  ⟨completes_next (by decide), by simp, completes_next (by decide), by simp, by simp⟩
theorem witness_FlagsWritten : (∃ t, exec .lcdInit blank = .next t) ∧ (∃ t, exec (.tchInit 1 1 0#8) blank = .next t) ∧
    (∃ t, exec .sysTick blank = .next t) ∧ Instr.sysTick ≠ .lcdInit ∧ Instr.sysTick ≠ .tchPoll ∧
    ∀ x y f, Instr.sysTick ≠ .tchInit x y f :=
  ⟨completes_next (by decide), completes_next (by decide), completes_next (by decide), by decide, by decide, by simp⟩
/-- Each row of the table at a state that meets it, and one that meets none; the callback returns in all. -/
theorem witness_RefusedExactlyByTheTable : blank.cfg.callback ≠ .neverReturns ∧
    refusalOf .reservedC blank = some .reservedOp ∧ refusalOf .sysTick { blank with busy := true } = some .busy ∧
    refusalOf (.lcdFlush origin []) blank = some .notInitialised ∧ refusalOf .tchPoll blank = some .notInitialised ∧
    refusalOf .lcdInit lcdUp = some .alreadyInitialised ∧ refusalOf (.tchInit 0 0 0#8) tchUp = some .alreadyInitialised ∧
    refusalOf (.tchInit 0 1 0#8) blank = some .operandRange ∧ refusalOf (.mapOrient 4096 0 0#8) blank = some .operandRange ∧
    refusalOf (.mapCalibrate 100 100 0 1 0#16) tchUp = some .calibrationRange ∧
    refusalOf (.mapCalibrate 0 1 0 1 136#16) tchUp = some .calibrationRange ∧
    refusalOf (.btpWlb 0#16) lcdUp = some .notSelected ∧
    refusalOf .btpPulse { selected with latch := none } = some .latchUnknown ∧
    refusalOf (.lcdFlush origin []) lcdUp = some .bufferTooShort ∧ refusalOf (.lcdFlush rightOf []) lcdUp = none := by
  decide
theorem witness_NoReentrancy : { blank with busy := true }.busy = true ∧ isOperation .lcdInit = true ∧
    (let s := { lcdUp with cfg := { cfgT with callback := .issuesOperation } }
     s.busy = false ∧ s.lcdReady = true ∧ bufferShort (.lcdFlush origin [1#16]) s.cfg = false ∧
     s.cfg.callback = .issuesOperation) ∧
    (let s := { lcdUp with cfg := { cfgT with callback := .neverReturns } }
     s.busy = false ∧ s.lcdReady = true ∧ bufferShort (.lcdFlush origin [1#16]) s.cfg = false ∧
     s.cfg.callback = .neverReturns) := by decide
theorem witness_OnlyTouchReadsInputs : asksEnvironment (.lcdFlush origin [1#16]) = false ∧
    ∃ t, exec (.lcdFlush origin [1#16]) lcdUp = .next t := ⟨by decide, completes_next (by decide)⟩
theorem witness_BtpPulseResult : selected.busy = false ∧ selected.lcdReady = true ∧ selected.pin.lCs = some true ∧
    selected.latch = some 0xF800#16 := by decide
theorem witness_BtpWlbResult : selected.busy = false ∧ selected.lcdReady = true ∧ selected.pin.lCs = some true := by decide
theorem witness_BtpNeverIssuableAtBoundary : Inv lcdUp ∧ lcdUp.lcdReady = true ∧ Inv blank ∧ blank.lcdReady = false := by
  decide
/-- At the largest legal `RESP_SKIP`. -/
theorem witness_LevelPExpandsLevelF :
    { answering tchUp [1#12] [] with cfg := { cfgRing with respSkip := 4 } }.cfg.respSkip ≤ 4 ∧
    ∃ t, exec .cmdTouchY { answering tchUp [1#12] [] with cfg := { cfgRing with respSkip := 4 } } = .next t :=
  ⟨by decide, completes_next (by decide)⟩
theorem witness_LcdInitRunsTheTable : blank.busy = false ∧ blank.lcdReady = false ∧ 1 ≤ blank.cfg.panelW ∧
    1 ≤ blank.cfg.panelH := by decide
theorem witness_LcdInitEndState : ∃ t, exec .lcdInit blank = .next t := completes_next (by decide)
/-- At both ends of a clipped region of several rows (vector F3). -/
theorem witness_FlushReadsInsideBuffer :
    let r : Region := ⟨0xFFFE#16, 0xFFFF#16, 2#16, 1#16⟩
    let buf := List.replicate 15 0#16
    (clip cfgT r).isEmpty = false ∧ bufferLongEnough r (clip cfgT r) buf = true ∧
    ((clip cfgT r).cx1 ≤ 0 ∧ (0 : Int) ≤ (clip cfgT r).cx2 ∧ (clip cfgT r).cy1 ≤ 0 ∧ (0 : Int) ≤ (clip cfgT r).cy2) ∧
    ((clip cfgT r).cx1 ≤ 2 ∧ (2 : Int) ≤ (clip cfgT r).cx2 ∧ (clip cfgT r).cy1 ≤ 1 ∧ (1 : Int) ≤ (clip cfgT r).cy2) := by
  decide
theorem witness_FlushRunsThePseudocode : lcdUp.busy = false ∧ lcdUp.lcdReady = true ∧ lcdUp.cfg.callback ≠ .neverReturns ∧
    (clip lcdUp.cfg below).isEmpty = true ∧ (clip lcdUp.cfg corner).isEmpty = false ∧
    bufferLongEnough corner (clip lcdUp.cfg corner) [1#16] = true := by decide
theorem witness_FlushEmptyRegion : lcdUp.busy = false ∧ lcdUp.lcdReady = true ∧ lcdUp.cfg.callback ≠ .neverReturns ∧
    (clip lcdUp.cfg rightOf).cx1 > (clip lcdUp.cfg rightOf).cx2 ∧ (clip lcdUp.cfg below).cy1 > (clip lcdUp.cfg below).cy2 := by
  decide
theorem witness_FlushSignalsOnce : (∃ t, exec (.lcdFlush corner [1#16]) lcdUp = .next t) ∧
    (clip lcdUp.cfg corner).isEmpty = false := ⟨completes_next (by decide), by decide⟩
theorem witness_FlushSize : (clip lcdUp.cfg origin).isEmpty = false ∧ ∃ t, exec (.lcdFlush origin [1#16]) lcdUp = .next t :=
  ⟨by decide, completes_next (by decide)⟩
theorem witness_FlushTraceDecodesToPixels : (clip lcdUp.cfg corner).isEmpty = false ∧
    ∃ t, exec (.lcdFlush corner [1#16]) lcdUp = .next t := ⟨by decide, completes_next (by decide)⟩
theorem witness_FlushDeliversClippedPixels : lcdUp.pin.lDc = some true ∧ (clip lcdUp.cfg corner).isEmpty = false ∧
    ∃ t, exec (.lcdFlush corner [1#16]) lcdUp = .next t := ⟨by decide, by decide, completes_next (by decide)⟩
/-- On the largest legal panel. -/
theorem witness_WindowBoundsInsidePanel : { cfgT with panelW := 65536, panelH := 65536 }.panelW ≤ 65536 ∧
    { cfgT with panelW := 65536, panelH := 65536 }.panelH ≤ 65536 ∧
    (clip { cfgT with panelW := 65536, panelH := 65536 } ⟨0x7FFF#16, 0#16, 0x7FFF#16, 0x7FFF#16⟩).isEmpty = false := by
  decide
theorem witness_ExchangeProtocol : { blank with cfg := { cfgT with respSkip := 0 } }.cfg.respSkip ≤ 4 ∧
    { blank with cfg := { cfgT with respSkip := 4 } }.cfg.respSkip ≤ 4 := by decide
theorem witness_ReadChannelResult : tchUp.busy = false ∧ tchUp.tchReady = true ∧ tchUp.cfg.respSkip ≤ 4 ∧
    (answering tchUp [0xABC#12] []).tdi = ((List.range 12).map fun j => (0xABC#12).getLsbD (11 - j)) ++ [] := by decide
theorem witness_DenoiseResult : tchUp.busy = false ∧ tchUp.tchReady = true ∧ 1 ≤ tchUp.cfg.ringN ∧
    1 ≤ { cfgT with ringN := 1 }.ringN := by decide
theorem witness_IsDenoise : IsDenoise cfgRing [3000#12, 2001#12, 2002#12] 2001#12 where
  fills := by decide
  bounded := by decide
  failed := by decide
  last := by decide
  mean := by decide
theorem witness_DenoiseDeterminedByReadings : IsDenoise cfgRing [3000#12, 2001#12, 2002#12] 2001#12 ∧
    IsDenoise cfgRing [3000#12, 2001#12, 2002#12] 2001#12 ∧
    [3000#12, 2001#12, 2002#12] ++ [] = [3000#12, 2001#12, 2002#12] := ⟨witness_IsDenoise, witness_IsDenoise, rfl⟩
theorem witness_SamplerVerdict : 1 ≤ tchUp.cfg.ringN ∧ windowOk cfgRing [2000#12, 2000#12] 0 = true ∧
    windowOk cfgRing [3000#12, 2001#12, 1500#12] 1 = false := by decide
theorem witness_RingSumAndOldest : 1 ≤ blank.cfg.ringN := by decide
theorem witness_EqualReadingsConvergeAtOnce : tchUp.busy = false ∧ tchUp.tchReady = true ∧ 1 ≤ tchUp.cfg.ringN ∧
    tchUp.cfg.respSkip ≤ 4 ∧ (answering tchUp [2000#12, 2000#12] []).tdi =
      (List.replicate tchUp.cfg.ringN (responseBits 2000#12)).flatten ++ [] := by decide
theorem witness_PollWithoutContact : tchUp.busy = false ∧ tchUp.tchReady = true ∧
    (answering tchUp [] [false]).rdy = false :: [] := by decide
theorem witness_PollWithContact : tchUp.busy = false ∧ tchUp.tchReady = true ∧ 1 ≤ tchUp.cfg.ringN ∧
    (answering tchUp [] [true, true]).rdy = true :: true :: [] ∧
    (answering tchUp [] [true, false]).rdy = true :: false :: [] := by decide
theorem witness_PollEvent : tchUp.busy = false ∧ tchUp.tchReady = true ∧ 1 ≤ tchUp.cfg.ringN ∧ 1 ≤ tchUp.tdim.x ∧
    1 ≤ tchUp.tdim.y := by decide
theorem witness_PollExchangeCount : 1 ≤ tchUp.cfg.ringN ∧ 1 ≤ tchUp.cfg.maxAttempts ∧
    ∃ t, exec .tchPoll (answering tchUp [] [false]) = .next t := ⟨by decide, by decide, completes_next (by decide)⟩
theorem witness_TchInitResult : blank.busy = false ∧ blank.tchReady = false ∧
    (1 ≤ 1 ∧ 1 ≤ 65536) ∧ (1 ≤ 65536 ∧ 65536 ≤ 65536) := by decide
theorem witness_DefaultProfileSpansTheAxis : (1 ≤ 1 ∧ 1 ≤ 65536) ∧ (1 ≤ 65536 ∧ 65536 ≤ 65536) ∧ 4096 ≤ 4096 := by decide
theorem witness_MapOrientResult : blank.busy = false ∧ 4095 ≤ 4095 ∧ 0 ≤ 4095 := by decide
theorem witness_MapApplycalResult : blank.busy = false ∧ 4095 ≤ 4095 ∧ 1 ≤ 65536 ∧ 65536 ≤ 65536 := by decide
theorem witness_ApplycalInRangeAndMonotone : 1 ≤ 1 ∧ (0#12).toNat ≤ (4095#12).toNat := by decide
/-- Vectors K1 and K2, and the largest legal margin, as in K6. -/
theorem witness_MapCalibrateResult : tchUp.busy = false ∧ tchUp.tchReady = true ∧ 4000 ≤ 4095 ∧ 3900 ≤ 4095 ∧ 100 < 4000 ∧
    200 < 3900 ∧ 2 * (10#16).toNat ≤ tchUp.tdim.x - 1 ∧ 2 * (135#16).toNat ≤ tchUp.tdim.y - 1 ∧ dimOk tchUp.tdim.x = true ∧
    dimOk tchUp.tdim.y = true := by decide
theorem witness_CalibrationHitsTheMargins : dimOk tchUp.tdim.x = true ∧ dimOk tchUp.tdim.y = true ∧
    ∃ t, exec (.mapCalibrate 2000 2001 0 4095 135#16) tchUp = .next t := ⟨by decide, by decide, completes_next (by decide)⟩
theorem witness_SysTickIsIdentity : blank.busy = false ∧ Quiescent blank ∧ blank.result = .nothing := by decide
theorem witness_LcdFramesComplete : lcdFrameOf cfgRing (.cmdColAddr [0#8, 7#8] [0#8, 7#8]) = some (0x2A#8, [0#8, 7#8, 0#8, 7#8]) ∧
    lcdFrameOf cfgRing (.cmdPllMult (some [])) = some (0xE2#8, []) ∧ selected.busy = false ∧ selected.lcdReady = true ∧
    selected.pin.lCs = some true := by decide
theorem witness_PixelWritesComplete : selected.busy = false ∧ selected.lcdReady = true ∧ selected.pin.lCs = some true ∧
    selected.pin.lDc = some true ∧ selected.latch = some 0xF800#16 := by decide
theorem witness_TouchFramesComplete : touchByteOf cfgRing .cmdTouchPd = some 0x90#8 ∧ tchUp.busy = false ∧
    tchUp.tchReady = true ∧ tchUp.pin.tCs ≠ some true := by decide

end Sys2Proof.Tests
end

section
/-!
PROOFS. The statements on the scope of the block (00_scope.md): level P refines level F (R8), the environment's answers
never decide whether there is a next step, and only the touch family reads them (R19).
-/

namespace Sys2Proof.Machine

/-! ### Level P refines level F (R8) -/

/-- From `s` to `t` both traces grow, level P by the expansion of what level F grows by (R8). -/
def Refines (s t : State) : Prop :=
  ∃ es, t.traceF = s.traceF ++ es ∧ t.traceP = s.traceP ++ es.flatMap (EventF.levelP s.cfg)

/-- Work that emits nothing refines. -/
theorem Refines.of_same_traces {s t : State} (hF : t.traceF = s.traceF) (hP : t.traceP = s.traceP) : Refines s t :=
  ⟨[], by simp [hF], by simp [hP]⟩

/-- LCD events are emitted at both levels (R136). -/
theorem lcdEvents_refines (es : List LcdEvent) (s : State) : Refines s (lcdEvents es s) :=
  ⟨es.map .lcd, lcdEvents_traceF es s, by rw [lcdEvents_traceP, List.flatMap_map]; rfl⟩

/-- Touch events are emitted at both levels (R193, R206, R212). -/
theorem TouchRun.refines {es : List TchEvent} {s t : State} (h : TouchRun es s t) (hr : s.cfg.respSkip ≤ 4) :
    Refines s t :=
  ⟨es.map .tch, h.traceF, by rw [h.traceP hr, List.flatMap_map]; rfl⟩

theorem tchSetup_refines (s : State) : Refines s (tchSetup s) :=
  ⟨[.tch .tchSetup], rfl, by simp [tchSetup, EventF.levelP, TchEvent.levelP]⟩

/-- Every instruction that completes refines, family by family: only an LCD script, touch work and TCH.INIT emit. -/
theorem exec_refines {i : Instr} {s t : State} (hr : s.cfg.respSkip ≤ 4) (h : exec i s = .next t) : Refines s t := by
  rcases instr_cases s i with ⟨es, hs⟩ | ha | ⟨x, y, f, rfl⟩ | ⟨xl, xh, yl, yh, m, rfl⟩ | hp | hv
  · rw [exec_lcd hs h]
    exact lcdEvents_refines es s
  · obtain ⟨-, -, u, p, r, rfl, -, hu⟩ := exec_touch ha h
    obtain ⟨es, hrun, -⟩ := hu.run
    exact hrun.refines hr
  · obtain ⟨-, -, -, rfl⟩ := execTchInit_next h
    exact tchSetup_refines s
  · rw [execMapCalibrate_next h]
    exact .of_same_traces rfl rfl
  · obtain ⟨r, rfl⟩ := exec_pure hp h
    exact .of_same_traces rfl rfl
  · rw [exec_reserved hv] at h
    cases h

/-! ### Other answers (R19) -/

/-- The environment's side of a state: the answers supplied for `T_DI` and `T_RDY`, and the number of free answers read
so far, which selects the ones to come (log entry 4). -/
structure Answers where
  tdi   : List Bool
  rdy   : List Bool
  asked : Nat

/-- The same state before another environment. -/
def State.answer (s : State) (a : Answers) : State := { s with tdi := a.tdi, rdy := a.rdy, asked := a.asked }

/-- The environment a state stands before. -/
def State.answers (s : State) : Answers := ⟨s.tdi, s.rdy, s.asked⟩

/-- The same outcome, its next state before another environment. -/
def answered (a : Answers) : Out → Out
  | .next t => .next (t.answer a)
  | .fault f => .fault f
  | .refused r => .refused r

/-- A meaning that learns nothing from the answers and leaves them as they were: it commutes with exchanging them. -/
def Deaf (m : State → Out) : Prop := ∀ (s : State) (a : Answers), m (s.answer a) = answered a (m s)

section
variable (s : State) (a : Answers)

@[simp] theorem State.answer_cfg : (s.answer a).cfg = s.cfg := rfl
@[simp] theorem State.answer_self : s.answer s.answers = s := rfl

theorem State.setInitStep_answer (n : Nat) : (s.answer a).setInitStep n = (s.setInitStep n).answer a := rfl
theorem State.setLcd_answer (w : Option LcdWork) : (s.answer a).setLcd w = (s.setLcd w).answer a := rfl

theorem lcdEvent_answer (e : LcdEvent) : lcdEvent (s.answer a) e = (lcdEvent s e).answer a := by cases e <;> rfl

theorem lcdEvents_answer (es : List LcdEvent) : lcdEvents es (s.answer a) = (lcdEvents es s).answer a := by
  induction es generalizing s with
  | nil => rfl
  | cons e es ih => rw [lcdEvents_cons, lcdEvents_cons, lcdEvent_answer, ih]

end

/-! ### Deaf meanings are made of deaf parts -/

theorem Deaf.issue {body : State → Out} (h : Deaf body) : Deaf fun s => issue s body := by
  intro s a
  change Machine.issue (s.answer a) body = answered a (Machine.issue s body)
  cases hb : s.busy
  · rw [issue_idle s body hb, issue_idle (s.answer a) body hb]
    exact h (s.setBusy true) a
  · rw [issue_busy s body hb, issue_busy (s.answer a) body hb]
    rfl

theorem Deaf.ite {c : State → Bool} {m n : State → Out} (hc : ∀ s a, c (s.answer a) = c s) (hm : Deaf m) (hn : Deaf n) :
    Deaf fun s => if c s then m s else n s := by
  intro s a
  simp only [hc]
  split
  · exact hm s a
  · exact hn s a

theorem Deaf.refuseIf {bad : State → Bool} {why : Refusal} {go : State → Out} (hbad : ∀ s a, bad (s.answer a) = bad s)
    (h : Deaf go) : Deaf fun s => refuseIf (bad s) why (go s) :=
  .ite hbad (fun _ _ => rfl) h

theorem Deaf.withBus {body : State → Out} (h : Deaf body) : Deaf fun s => withBus s body :=
  .issue (.refuseIf (fun _ _ => rfl) (.refuseIf (fun _ _ => rfl) h))

theorem Deaf.after {m : State → Out} {f : State → State} (hm : Deaf m) (hf : ∀ s a, f (s.answer a) = (f s).answer a) :
    Deaf fun s => m (f s) := by
  intro s a
  simp only [hf]
  exact hm (f s) a

theorem complete_deaf (r : Result) : Deaf (complete r) := fun _ _ => rfl

/-! ### The instructions outside the touch family -/

theorem lcdFrame_deaf (code : Byte) (args : List Byte) : Deaf (lcdFrame code args) :=
  .withBus (.after (complete_deaf _) fun s a => lcdEvents_answer s a _)

theorem execLcdPix_deaf (p : Half) : Deaf (execLcdPix p) :=
  .withBus (.after (complete_deaf _) fun s a => lcdEvent_answer s a _)

theorem execLcdRpt_deaf : Deaf execLcdRpt :=
  .withBus (.refuseIf (fun _ _ => rfl) (.after (complete_deaf _) fun s a => lcdEvent_answer s a _))

/-- BTP.PULSE is the repeat-strobe under another name (log entry 8). -/
theorem execBtpPulse_deaf : Deaf execBtpPulse := execLcdRpt_deaf

theorem execBtpWlb_deaf (v : Half) : Deaf (execBtpWlb v) :=
  .withBus (.after (complete_deaf _) fun s a => lcdEvent_answer s a (writeEvent s.pin.lDc v))

theorem runSteps_answer (n : Nat) (steps : List (List LcdEvent)) (s : State) (a : Answers) :
    runSteps n steps (s.answer a) = (runSteps n steps s).answer a := by
  induction steps generalizing n s with
  | nil => rfl
  | cons es rest ih => rw [runSteps, runSteps, State.setInitStep_answer, lcdEvents_answer, ih]

theorem initSequence_answer (s : State) (a : Answers) : initSequence (s.answer a) = (initSequence s).answer a := by
  simp only [initSequence, State.answer_cfg, runSteps_answer, State.setInitStep_answer]
  split <;> simp only [State.setLcd_answer, lcdEvents_answer, runSteps_answer, lcdEvent_answer]

theorem execLcdInit_deaf : Deaf execLcdInit := by
  have hinit : ∀ s a, (initSequence (s.answer a)).setLcdReady true = ((initSequence s).setLcdReady true).answer a := by
    intro s a
    rw [initSequence_answer]
    rfl
  exact .issue (.refuseIf (fun _ _ => rfl) ((complete_deaf _).after hinit))

theorem streamCols_answer (buf : List Half) (w : LcdWork) (row idx : Int) (n : Nat) (col : Int) (prev : Option Half)
    (s : State) (a : Answers) :
    streamCols buf w row idx n col prev (s.answer a) = (streamCols buf w row idx n col prev s).answer a := by
  induction n generalizing col prev s with
  | zero => rfl
  | succ n ih => simp only [streamCols, lcdEvent_answer, State.setLcd_answer, ih]

theorem streamRows_answer (r : Region) (buf : List Half) (w : LcdWork) (n : Nat) (row : Int) (s : State) (a : Answers) :
    streamRows r buf w n row (s.answer a) = (streamRows r buf w n row s).answer a := by
  induction n generalizing row s with
  | zero => rfl
  | succ n ih => simp only [streamRows, State.setLcd_answer, streamCols_answer, ih]

theorem flushStream_answer (r : Region) (buf : List Half) (k : Clip) (s : State) (a : Answers) :
    flushStream r buf k (s.answer a) = (flushStream r buf k s).answer a := by
  simp only [flushStream, State.answer_cfg, State.setLcd_answer, lcdEvents_answer, streamRows_answer, lcdEvent_answer]

theorem signalDone_deaf : Deaf signalDone := by
  intro s a
  simp only [signalDone, lcdEvent_answer, State.answer_cfg]
  cases s.cfg.callback <;> rfl

theorem execLcdFlush_deaf (r : Region) (buf : List Half) : Deaf (execLcdFlush r buf) :=
  .issue (.refuseIf (fun _ _ => rfl) (.ite (fun _ _ => rfl) signalDone_deaf
    (.refuseIf (fun _ _ => rfl) (signalDone_deaf.after fun s a => flushStream_answer r buf (clip s.cfg r) s a))))

theorem execTchInit_deaf (x y : Nat) (f : Byte) : Deaf (execTchInit x y f) :=
  .issue (.refuseIf (fun _ _ => rfl) (.refuseIf (fun _ _ => rfl) fun _ _ => rfl))

theorem execMapCalibrate_deaf (xl xh yl yh : Nat) (m : Half) : Deaf (execMapCalibrate xl xh yl yh m) :=
  .issue (.refuseIf (fun _ _ => rfl) (.refuseIf (fun _ _ => rfl) (.refuseIf (fun _ _ => rfl) fun _ _ => rfl)))

theorem execMapOrient_deaf (x y : Nat) (f : Byte) : Deaf (execMapOrient x y f) :=
  .issue (.refuseIf (fun _ _ => rfl) (complete_deaf _))

theorem execMapApplycal_deaf (v : Nat) (k o : Word) (d : Nat) : Deaf (execMapApplycal v k o d) :=
  .issue (.refuseIf (fun _ _ => rfl) ((complete_deaf _).after fun _ _ => rfl))

theorem execSysTick_deaf : Deaf execSysTick := .issue (complete_deaf _)

theorem exec_pure_deaf {i : Instr} (hi : isPure i = true) : Deaf (exec i) := by
  cases i <;> try cases hi
  case mapOrient x y f => exact execMapOrient_deaf x y f
  case mapApplycal v k o d => exact execMapApplycal_deaf v k o d
  case sysTick => exact execSysTick_deaf

/-- An instruction on the LCD bus is deaf: it drives lines and samples none (R150). -/
theorem exec_lcd_answer {i : Instr} {s : State} {es : List LcdEvent} (h : lcdScript s i = some es) (a : Answers) :
    exec i (s.answer a) = answered a (exec i s) := by
  rcases lcdScript_cases h with
    ⟨rfl, -⟩ | ⟨r, buf, rfl, -⟩ | ⟨p, rfl, -⟩ | ⟨rfl | rfl, -⟩ | ⟨v, rfl, -⟩ | ⟨f, hf, -, -⟩
  · exact execLcdInit_deaf s a
  · exact execLcdFlush_deaf r buf s a
  · exact execLcdPix_deaf p s a
  · exact execLcdRpt_deaf s a
  · exact execBtpPulse_deaf s a
  · exact execBtpWlb_deaf v s a
  · rw [exec_frame hf, exec_frame (s := s.answer a) hf]
    exact lcdFrame_deaf f.1 f.2 s a

/-- Every instruction outside the touch family is deaf (R150, R230). -/
theorem exec_deaf {i : Instr} (hi : asksEnvironment i = false) : Deaf (exec i) := by
  intro s a
  rcases instr_cases s i with ⟨es, hs⟩ | ha | ⟨x, y, f, rfl⟩ | ⟨xl, xh, yl, yh, m, rfl⟩ | hp | hv
  · exact exec_lcd_answer hs a
  · rw [ha] at hi
    cases hi
  · exact execTchInit_deaf x y f s a
  · exact execMapCalibrate_deaf xl xh yl yh m s a
  · exact exec_pure_deaf hp s a
  · rw [exec_reserved hv, exec_reserved hv]
    rfl

/-- A deaf instruction leaves the answers as they were: put before its own environment again, it is unchanged. -/
theorem exec_keeps_answers {i : Instr} {s t : State} (hi : asksEnvironment i = false) (h : exec i s = .next t) :
    t.answers = s.answers := by
  have hself := exec_deaf hi s s.answers
  rw [State.answer_self, h] at hself
  have ht : t = t.answer s.answers := Host.Outcome.next.inj hself
  rw [ht]
  rfl

/-! ### The touch family: refused by the two checks of R276 or completed -/

/-- Why a touch instruction is refused, if it is: `Busy`, then `NotInitialised` (R276, R278). -/
def touchRefusal (s : State) : Option Refusal :=
  if s.busy then some .busy else if !s.tchReady then some .notInitialised else none

theorem bracketed_agree (body : State → Raw × State) (s : State) :
    Agree (touchRefusal s) (bracketed body s) :=
  .issue fun _ => .refuse fun _ => .go _

theorem touchFrame_agree (code : Byte) (report : Raw → Result) (s : State) :
    Agree (touchRefusal s) (touchFrame code report s) := by
  refine .issue fun _ => .refuse fun _ => ?_
  split
  · exact .go _
  · exact .go _

theorem execTchPoll_agree (s : State) : Agree (touchRefusal s) (execTchPoll s) := by
  refine .issue fun _ => .refuse fun _ => ?_
  dsimp only
  split
  · split
    · exact .go _
    · exact .go _
  · exact .go _

/-- Whether a touch instruction completes is decided by two flags of the state (R276). -/
theorem exec_asks_agree {i : Instr} (hi : asksEnvironment i = true) (s : State) : Agree (touchRefusal s) (exec i s) := by
  cases i <;> try cases hi
  case tchReadch ch => exact bracketed_agree _ s
  case tchDenoise ch => exact bracketed_agree _ s
  case tchPoll => exact execTchPoll_agree s
  case cmdTouchX => exact touchFrame_agree s.cfg.cmdTouchX .raw s
  case cmdTouchY => exact touchFrame_agree s.cfg.cmdTouchY .raw s
  case cmdTouchPd => exact touchFrame_agree s.cfg.cmdTouchPd (fun _ => .nothing) s

/-! ### Stopping alike -/

/-- Both outcomes are the same refusal, or both the same fault, or both a next state. -/
def StopsAlike (x y : Out) : Prop :=
  (∀ r, x = .refused r ↔ y = .refused r) ∧ (∀ f, x = .fault f ↔ y = .fault f)

theorem answered_stopsAlike (a : Answers) (x : Out) : StopsAlike x (answered a x) := by
  cases x <;> simp [StopsAlike, answered]

theorem Agree.stopsAlike {o : Option Refusal} {x y : Out} (hx : Agree o x) (hy : Agree o y) : StopsAlike x y := by
  obtain ⟨hx1, hx2⟩ := hx
  obtain ⟨hy1, hy2⟩ := hy
  cases o with
  | none =>
    obtain ⟨t, rfl⟩ := hx2 rfl
    obtain ⟨u, rfl⟩ := hy2 rfl
    simp [StopsAlike]
  | some r =>
    rw [hx1 r rfl, hy1 r rfl]
    exact ⟨fun _ => .rfl, fun _ => .rfl⟩

theorem exec_stopsAlike (i : Instr) (s : State) (a : Answers) : StopsAlike (exec i s) (exec i (s.answer a)) := by
  cases hi : asksEnvironment i
  · rw [exec_deaf hi s a]
    exact answered_stopsAlike a _
  · exact (exec_asks_agree hi s).stopsAlike (exec_asks_agree hi (s.answer a))

/-! ### The obligations -/

/-- Settles O24: the refinement step by step, over the families of instructions. -/
theorem levelPExpandsLevelF : Obligations.LevelPExpandsLevelF := by
  unfold Obligations.LevelPExpandsLevelF
  exact fun _ _ _ hr h => exec_refines hr h

/-- Settles O18: outside the touch family the answers pass through (`exec_deaf`); in it two flags decide. -/
theorem environmentNeverDecidesTheStep : Obligations.EnvironmentNeverDecidesTheStep := by
  unfold Obligations.EnvironmentNeverDecidesTheStep
  exact fun i s tdi rdy asked => exec_stopsAlike i s ⟨tdi, rdy, asked⟩

/-- Settles O19: `exec_deaf` for the other answers, `exec_keeps_answers` for the state's own. -/
theorem onlyTouchReadsInputs : Obligations.OnlyTouchReadsInputs := by
  unfold Obligations.OnlyTouchReadsInputs
  intro i s t tdi rdy asked hi h
  have hother : exec i (s.answer ⟨tdi, rdy, asked⟩) = .next (t.answer ⟨tdi, rdy, asked⟩) := by
    rw [exec_deaf hi, h]
    rfl
  obtain ⟨htdi, hrdy, hasked⟩ := Answers.mk.inj (exec_keeps_answers hi h)
  exact ⟨hother, htdi, hrdy, hasked⟩

end Sys2Proof.Machine
end

section
/-!
PROOFS. The statements on the state (10_state.md) that are about every instruction: the invariant of the boundary between
two operations (R20, R28, R29, R49 to R51), the pins as the trace drives them (R38), and who writes the configuration
registers and the flags (R25 to R29). All of them are read off one inversion lemma, `exec_completed`.
-/

namespace Sys2Proof.Machine

/-! ### What an instruction that completes has done -/

/-- The ways an instruction completes, a family each: it ran its LCD script, it did touch work, it is TCH.INIT or
MAP.CALIBRATE, or it left nothing but its result. -/
inductive Completed (i : Instr) (s : State) : State → Prop
  | lcd (es : List LcdEvent) (script : lcdScript s i = some es) :
      Completed i s (((lcdEvents es s).setLcdReady (s.lcdReady || decide (i = .lcdInit))).finish .nothing)
  | touch (asks : asksEnvironment i = true) (ready : s.tchReady = true) (u : State) (p : Bool) (r : Result)
      (pressed : i ≠ .tchPoll → p = s.prevPressed) (shape : TouchShape (s.setBusy true) u) :
      Completed i s ((u.setPressed p).finish r)
  | tchInit (x y : Nat) (f : Byte) (instr : i = .tchInit x y f) (hx : dimOk x = true) (hy : dimOk y = true) :
      Completed i s (((((((tchSetup s).setTdim { x := x, y := y }).setOri (oriOf f)).setCal (defaultCal x y)).setPressed
        false).setTchReady true).finish .nothing)
  | mapCalibrate (xl xh yl yh : Nat) (m : Half) (instr : i = .mapCalibrate xl xh yl yh m) (c : Cal) :
      Completed i s ((s.setCal c).finish .nothing)
  | pure (hpure : isPure i = true) (r : Result) : Completed i s (s.finish r)

theorem exec_completed {i : Instr} {s t : State} (h : exec i s = .next t) : Completed i s t := by
  rcases instr_cases s i with ⟨es, hs⟩ | ha | ⟨x, y, f, rfl⟩ | ⟨xl, xh, yl, yh, m, rfl⟩ | hp | hv
  · rw [exec_lcd hs h]
    exact .lcd es hs
  · obtain ⟨-, hready, u, p, r, rfl, hpressed, hshape⟩ := exec_touch ha h
    exact .touch ha hready u p r hpressed hshape
  · obtain ⟨-, hx, hy, rfl⟩ := execTchInit_next h
    exact .tchInit x y f rfl hx hy
  · rw [execMapCalibrate_next h]
    exact .mapCalibrate xl xh yl yh m rfl _
  · obtain ⟨r, rfl⟩ := exec_pure hp h
    exact .pure hp r
  · rw [exec_reserved hv] at h
    cases h

/-- Completion ends the operation, whatever it was (R20, R28, R29). -/
theorem exec_quiescent {i : Instr} {s t : State} (h : exec i s = .next t) : Quiescent t := by
  cases exec_completed h <;> exact ⟨rfl, rfl, rfl⟩

theorem TouchShape.frame {s u : State} (h : TouchShape s u) : TouchFrame s u :=
  let ⟨_, hrun, _⟩ := h.run
  hrun.frame

theorem tchSetup_frame (s : State) : TouchFrame s (tchSetup s) :=
  .trans (.emitF _ _) (.emitP _ _ (by simp [touchOnly]))

/-! ### The LCD lines between operations (R50, R289) -/

/-- Touch work leaves the LCD unit as it was (R190). -/
theorem TouchFrame.lcdLinesOk {s t : State} (h : TouchFrame s t) (hs : LcdLinesOk s) : LcdLinesOk t := by
  unfold LcdLinesOk
  rw [h.lcdReady, h.latch, h.lcdPins]
  exact hs

/-- LCD lines at rest with the controller deselected are those of R50. -/
theorem Resting.lcdLinesOk {s : State} (h : Resting s.pin s.latch) (hready : s.lcdReady = true)
    (hcs : s.pin.lCs = some false) : LcdLinesOk s := by
  obtain ⟨hrst, hdc, hwr, hle, hlatch, hdl⟩ := h
  unfold LcdLinesOk
  rw [if_pos hready]
  exact ⟨hrst, hcs, hdc, hwr, hle, hlatch, hdl⟩

/-- A Flush ends with the controller deselected, if it began so (R159, R166). -/
theorem flushEvents_lCs (c : Config) (r : Region) (buf : List Half) (p : Pins) (h : p.lCs = some false) :
    (((flushEvents c r buf).flatMap LcdEvent.levelP).foldl Pins.apply p).lCs = some false := by
  rcases flushEvents_shape c r buf with he | ⟨mid, -, he⟩
  · rw [he]
    exact h
  · rw [he, List.flatMap_append, List.foldl_append]
    rfl

theorem flushEvents_keepsRest (c : Config) (r : Region) (buf : List Half) :
    (flushEvents c r buf).all keepsRest = true := by
  rcases flushEvents_shape c r buf with he | ⟨mid, hmid, he⟩
  · rw [he]
    rfl
  · have hmid' : mid.all keepsRest = true :=
      List.all_eq_true.2 fun e hm => keepsRest_busWrite e (List.all_eq_true.1 hmid e hm)
    rw [he, List.all_append, List.all_append, hmid']
    rfl

/-- The LCD unit after LCD.INIT (R50). -/
theorem execLcdInit_lines {s t : State} (h : execLcdInit s = .next t) :
    t.lcdReady = true ∧ t.pin.lRst = some false ∧ t.pin.lCs = some false ∧ t.pin.lDc = some true ∧
      t.pin.lWr = some true ∧ t.pin.lLe = some false ∧
      t.latch = some ((s.cfg.argsBlPwm.getLastD s.cfg.cmdBlPwm).setWidth 16) ∧ t.pin.dl = t.latch := by
  obtain ⟨-, -, rfl⟩ := execLcdInit_next h
  have hlatch := initSequence_latch s.cfg s.latch
  have hpins := initSequence_pins s.cfg s.pin
  generalize (initHead s.cfg).flatten ++ initClear s.cfg ++ (initTail s.cfg).flatten ++ [.lcdDesel] = es at *
  rw [← lcdEvents_latch] at hlatch
  rw [← lcdEvents_pin] at hpins
  obtain ⟨hrst, hcs, hdc, hwr, hle, hdl⟩ := hpins
  exact ⟨rfl, hrst, hcs, hdc, hwr, hle, hlatch, hdl.trans hlatch.symm⟩

theorem execLcdInit_lcdLinesOk {s t : State} (h : execLcdInit s = .next t) : LcdLinesOk t := by
  obtain ⟨hready, hrst, hcs, hdc, hwr, hle, hlatch, hdl⟩ := execLcdInit_lines h
  exact Resting.lcdLinesOk ⟨hrst, hdc, hwr, hle, by simp [hlatch], hdl⟩ hready hcs

theorem execLcdFlush_lcdLinesOk {r : Region} {buf : List Half} {s t : State} (hs : LcdLinesOk s)
    (h : execLcdFlush r buf s = .next t) : LcdLinesOk t := by
  obtain ⟨-, hready, -, -, rfl⟩ := execLcdFlush_next h
  unfold LcdLinesOk at hs
  rw [if_pos hready] at hs
  obtain ⟨hrst, hcs, hdc, hwr, hle, hlatch, hdl⟩ := hs
  have hrest := Resting.events ⟨hrst, hdc, hwr, hle, hlatch, hdl⟩ _ (flushEvents_keepsRest s.cfg r buf)
  rw [← lcdEvents_pin, ← lcdEvents_latch] at hrest
  have hcs' := flushEvents_lCs s.cfg r buf s.pin hcs
  rw [← lcdEvents_pin] at hcs'
  exact Resting.lcdLinesOk hrest (by simpa using hready) hcs'

/-- On the LCD bus only LCD.INIT and LCD.FLUSH complete at a boundary: a direct bus write finds the controller deselected
(R132). -/
theorem exec_lcd_lcdLinesOk {i : Instr} {s t : State} {es : List LcdEvent} (hs : Inv s) (hscript : lcdScript s i = some es)
    (h : exec i s = .next t) : LcdLinesOk t := by
  have hbus : isBusInstr i ≠ true := fun hi => (Inv.deselected s hs).1 (exec_bus hi h)
  obtain ⟨-, hlcd, -⟩ := hs
  rcases lcdScript_cases hscript with
    ⟨rfl, -⟩ | ⟨r, buf, rfl, -⟩ | ⟨p, rfl, -⟩ | ⟨rfl | rfl, -⟩ | ⟨v, rfl, -⟩ | ⟨f, -, -, hi⟩
  · exact execLcdInit_lcdLinesOk h
  · exact execLcdFlush_lcdLinesOk hlcd h
  · exact absurd rfl hbus
  · exact absurd rfl hbus
  · exact absurd rfl hbus
  · exact absurd rfl hbus
  · exact absurd hi hbus

/-! ### The touch lines between operations (R51, R191) -/

theorem lcdEvents_touchPins (es : List LcdEvent) (s : State) :
    (lcdEvents es s).pin.tCs = s.pin.tCs ∧ (lcdEvents es s).pin.tClk = s.pin.tClk ∧
      (lcdEvents es s).pin.tDo = s.pin.tDo := by
  rw [lcdEvents_pin]
  exact Pins.foldl_touch es s.pin

/-- LCD events leave the touch unit as it was (R150). -/
theorem lcdEvents_touchOk {s : State} (es : List LcdEvent) (h : TouchOk s) : TouchOk (lcdEvents es s) := by
  obtain ⟨hcs, hclk, hdo⟩ := lcdEvents_touchPins es s
  unfold TouchOk
  rw [hcs, hclk, hdo, lcdEvents_tchReady, lcdEvents_tdim, lcdEvents_prevPressed]
  exact h

/-- A touch instruction issued with the ADC deselected leaves it deselected (R213, R214). -/
theorem TouchShape.deselects {s u : State} (h : TouchShape s u) (hcs : s.pin.tCs = some false) :
    u.pin.tCs = some false := by
  rcases h with h | ⟨a, b, -, -, rfl⟩ | ⟨hsel, -⟩
  · obtain ⟨ps, -, hpin, hps⟩ := h.pins
    rw [hpin, samples_pins ps s.pin hps, hcs]
  · rfl
  · rw [hcs] at hsel
    cases hsel

/-- Touch work on an initialised unit begins and ends with its lines idle (R51, R191). -/
theorem TouchShape.touchOk {s u : State} (h : TouchShape s u) (hready : s.tchReady = true) (hs : TouchOk s) :
    TouchOk u := by
  unfold TouchOk at hs ⊢
  rw [if_pos hready] at hs
  obtain ⟨hcs, hclk, hdo, hx, hy⟩ := hs
  obtain ⟨_, hrun, -⟩ := h.run
  obtain ⟨hclk', hdo'⟩ := hrun.low ⟨hclk, hdo⟩
  rw [if_pos (hrun.frame.tchReady.trans hready), hrun.frame.tdim]
  exact ⟨h.deselects hcs, hclk', hdo', hx, hy⟩

/-- Once TCH.INIT has run, `prev_pressed` may hold either value at a boundary (R26, R49). -/
theorem TouchOk.setPressed {s : State} (h : TouchOk s) (hready : s.tchReady = true) (p : Bool) :
    TouchOk (s.setPressed p) := by
  unfold TouchOk at h ⊢
  rw [if_pos hready] at h
  rw [State.setPressed_tchReady, if_pos hready]
  exact h

/-! ### The invariant -/

/-- An instruction keeps the invariant: it ends quiescent, and each family leaves each unit's lines idle or untouched. -/
theorem exec_keeps_inv {i : Instr} {s t : State} (hs : Inv s) (h : exec i s = .next t) : Inv t := by
  refine ⟨exec_quiescent h, ?_⟩
  have ⟨_, hlcd, htch⟩ := hs
  cases exec_completed h with
  | lcd es hscript => exact ⟨exec_lcd_lcdLinesOk hs hscript h, lcdEvents_touchOk es htch⟩
  | touch ha hready u p r hp hshape =>
    have hready' : u.tchReady = true := hshape.frame.tchReady.trans hready
    exact ⟨hshape.frame.lcdLinesOk hlcd, (hshape.touchOk hready htch).setPressed hready' p⟩
  | tchInit x y f hi hx hy => exact ⟨(tchSetup_frame s).lcdLinesOk hlcd, rfl, rfl, rfl, hx, hy⟩
  | mapCalibrate => exact ⟨hlcd, htch⟩
  | pure => exact ⟨hlcd, htch⟩

/-- A step takes no call, or runs the instruction the next call decodes to on a state that differs in its pending calls
only (R260). -/
theorem step_next {s t : State} (h : step s = .next t) :
    t = s ∨ ∃ i rest, exec i (s.setCalls rest) = .next t := by
  unfold step at h
  split at h
  · exact .inl (Host.Outcome.next.inj h).symm
  · split at h
    · cases h
    · exact .inr ⟨_, _, h⟩

/-- Settles O11: with no call pending the state stays, and an instruction keeps the invariant (`exec_keeps_inv`). -/
theorem everyStepKeepsInvariant : Obligations.EveryStepKeepsInvariant := by
  unfold Obligations.EveryStepKeepsInvariant
  intro s t hs h
  rcases step_next h with rfl | ⟨i, rest, h⟩
  · exact hs
  · exact exec_keeps_inv (s := s.setCalls rest) hs h

/-- Settles O13: LCD scripts and touch work drive the pins by what they emit, TCH.INIT by its set-up; nothing else emits. -/
theorem pinsFollowTheTrace : Obligations.PinsFollowTheTrace := by
  unfold Obligations.PinsFollowTheTrace
  intro i s t h
  cases exec_completed h with
  | lcd es _ => exact ⟨es.flatMap LcdEvent.levelP, lcdEvents_traceP es s, lcdEvents_pin es s⟩
  | touch _ _ u _ _ _ hshape => exact hshape.pins
  | tchInit => exact ⟨(TchEvent.tchSetup).levelP s.cfg, rfl, rfl⟩
  | mapCalibrate => exact ⟨[], by simp, rfl⟩
  | pure => exact ⟨[], by simp, rfl⟩

/-! ### Who writes the configuration registers and the flags (R25 to R29) -/

/-- Settles O14: outside TCH.INIT and MAP.CALIBRATE every family has the three registers in its frame. -/
theorem configurationRegistersWritten : Obligations.ConfigurationRegistersWritten := by
  unfold Obligations.ConfigurationRegistersWritten
  intro i s t h
  cases exec_completed h with
  | lcd es _ => exact ⟨fun _ => ⟨lcdEvents_ori es s, lcdEvents_tdim es s⟩, fun _ _ => lcdEvents_cal es s⟩
  | touch _ _ u _ _ _ hshape =>
    have hf := hshape.frame
    exact ⟨fun _ => ⟨hf.ori, hf.tdim⟩, fun _ _ => hf.cal⟩
  | tchInit x y f hi => exact ⟨fun hn => absurd hi (hn x y f), fun hn => absurd hi (hn x y f)⟩
  | mapCalibrate xl xh yl yh m hi => exact ⟨fun _ => ⟨rfl, rfl⟩, fun _ hn => absurd hi (hn xl xh yl yh m)⟩
  | pure => exact ⟨fun _ => ⟨rfl, rfl⟩, fun _ _ => rfl⟩

/-- `lcd_ready` after a completed instruction: set by LCD.INIT, else as before (R27). -/
theorem exec_lcdReady {i : Instr} {s t : State} (h : exec i s = .next t) :
    t.lcdReady = (s.lcdReady || decide (i = .lcdInit)) := by
  have hother : i ≠ .lcdInit → (s.lcdReady || decide (i = .lcdInit)) = s.lcdReady := fun hi => by simp [hi]
  cases exec_completed h with
  | lcd => rfl
  | touch ha _ u _ _ _ hshape =>
    rw [hother (by rintro rfl; cases ha)]
    exact hshape.frame.lcdReady
  | tchInit _ _ _ hi => exact (hother (by simp [hi])).symm
  | mapCalibrate _ _ _ _ _ hi => exact (hother (by simp [hi])).symm
  | pure hp => exact (hother (by rintro rfl; cases hp)).symm

/-- TCH.INIT sets `tch_ready` and clears `prev_pressed` (R212). -/
theorem execTchInit_flags {x y : Nat} {f : Byte} {s t : State} (h : execTchInit x y f s = .next t) :
    t.tchReady = true ∧ t.prevPressed = false := by
  obtain ⟨-, -, -, rfl⟩ := execTchInit_next h
  exact ⟨rfl, rfl⟩

/-- No other instruction writes `tch_ready`, and of those only TCH.POLL writes `prev_pressed` (R26, R27). -/
theorem exec_keeps_touchFlags {i : Instr} {s t : State} (hi : ∀ x y f, i ≠ .tchInit x y f) (h : exec i s = .next t) :
    t.tchReady = s.tchReady ∧ (i ≠ .tchPoll → t.prevPressed = s.prevPressed) := by
  cases exec_completed h with
  | lcd es _ => exact ⟨lcdEvents_tchReady es s, fun _ => lcdEvents_prevPressed es s⟩
  | touch _ _ u p r hp hshape => exact ⟨hshape.frame.tchReady, hp⟩
  | tchInit x y f hi' => exact absurd hi' (hi x y f)
  | mapCalibrate => exact ⟨rfl, fun _ => rfl⟩
  | pure => exact ⟨rfl, fun _ => rfl⟩

/-- An instruction leaves the configuration and the host's pending calls alone (log entries 1, 2). -/
theorem exec_keeps_host {i : Instr} {s t : State} (h : exec i s = .next t) : t.cfg = s.cfg ∧ t.calls = s.calls := by
  cases exec_completed h with
  | lcd es _ => exact ⟨lcdEvents_cfg es s, lcdEvents_calls es s⟩
  | touch _ _ u p r hp hshape => exact ⟨hshape.frame.cfg, hshape.frame.calls⟩
  | tchInit => exact ⟨rfl, rfl⟩
  | mapCalibrate => exact ⟨rfl, rfl⟩
  | pure => exact ⟨rfl, rfl⟩

/-- Settles O15: each flag has its own lemma above, and completion ends the operation (`exec_quiescent`). -/
theorem flagsWritten : Obligations.FlagsWritten := by
  unfold Obligations.FlagsWritten
  intro i s t h
  have hlcd := exec_lcdReady h
  obtain ⟨hbusy, hfsm, hwork⟩ := exec_quiescent h
  obtain ⟨hcfg, hcalls⟩ := exec_keeps_host h
  refine ⟨fun hi => ?_, fun hi => ?_, fun x y f hi => ?_, fun hi => exec_keeps_touchFlags hi h, hbusy, hfsm, hwork, hcfg,
    hcalls⟩
  · simp [hlcd, hi]
  · simp [hlcd, hi]
  · subst hi
    exact execTchInit_flags h

/-! ### Reset (R49) -/

/-- Settles O9: the fields of `State.reset`. -/
theorem resetValues : Obligations.ResetValues := ⟨rfl, rfl, rfl, rfl, rfl, rfl, rfl, rfl⟩

/-- Settles O10: after reset no operation runs, and neither unit is initialised nor has a line with a value. -/
theorem resetMeetsInvariant : Obligations.ResetMeetsInvariant := by
  have hquiet : Quiescent State.reset := ⟨rfl, rfl, rfl⟩
  have hlcd : LcdLinesOk State.reset := ⟨rfl, rfl, rfl, rfl, rfl, rfl, rfl⟩
  have htch : TouchOk State.reset := ⟨rfl, rfl, rfl, rfl⟩
  exact ⟨hquiet, hlcd, htch⟩

end Sys2Proof.Machine
end

section
/-!
PROOFS. The statements on the state after one named operation (10_state.md): what LCD.INIT, a Flush and TCH.INIT leave and
deliver (R42, R50, R51), and the sampler and its ring at the end of a Denoise (R28, R34, R35).
-/

namespace Sys2Proof.Machine

/-! ### LCD.INIT (R42, R50, R153) -/

/-- Settles O26: the LCD unit by `execLcdInit_lines`; the touch unit is in the frame of its script. -/
theorem lcdInitEndState : Obligations.LcdInitEndState := by
  unfold Obligations.LcdInitEndState
  intro s t h
  obtain ⟨hready, hrst, hcs, hdc, hwr, hle, hlatch, hdl⟩ := execLcdInit_lines h
  refine ⟨hready, hrst, hcs, hdc, hwr, hle, hlatch, hdl, ?_⟩
  obtain ⟨-, -, rfl⟩ := execLcdInit_next h
  generalize (initHead s.cfg).flatten ++ initClear s.cfg ++ (initTail s.cfg).flatten ++ [.lcdDesel] = es
  exact ⟨lcdEvents_cal es s, lcdEvents_ori es s, lcdEvents_tdim es s, lcdEvents_prevPressed es s,
    lcdEvents_tchReady es s, lcdEvents_touchPins es s⟩

/-- LCD.INIT runs the events of its table (R153). -/
theorem execLcdInit_events {s : State} (hbusy : s.busy = false) (hready : s.lcdReady = false) (hw : 1 ≤ s.cfg.panelW)
    (hh : 1 ≤ s.cfg.panelH) :
    execLcdInit s = .next (((lcdEvents (initEvents s.cfg) s).setLcdReady true).finish .nothing) := by
  rw [← initSteps_flatten s.cfg hw hh]
  exact execLcdInit_ok hbusy hready

/-- Events that are no bus writes deliver nothing. -/
theorem lcdEvents_quiet (es : List LcdEvent) (s : State) (h : es.all (fun e => !isBusWrite e) = true) :
    (lcdEvents es s).delivered = s.delivered := by
  induction es generalizing s with
  | nil => rfl
  | cons e es ih =>
    rw [List.all_cons, Bool.and_eq_true, Bool.not_eq_true'] at h
    rw [lcdEvents_cons, ih _ h.2, lcdEvent_quiet s e h.1]

/-- Of a selected stretch of writes and delays between events that are no bus writes, the stretch is all the controller
receives (R42). -/
theorem lcdEvents_delivered_between (a mid b : List LcdEvent) (s : State) (ha : a.all (fun e => !isBusWrite e) = true)
    (hb : b.all (fun e => !isBusWrite e) = true) (hmid : mid.all isWriteOrDelay = true)
    (hcs : (lcdEvents a s).pin.lCs = some true) (hdc : (lcdEvents a s).pin.lDc = some true) :
    (lcdEvents (a ++ mid ++ b) s).delivered = s.delivered ++ streamWords (lcdEvents a s).latch mid := by
  rw [lcdEvents_append, lcdEvents_append, lcdEvents_quiet b _ hb, lcdEvents_delivered_mid mid _ hmid hcs hdc,
    lcdEvents_quiet a s ha]

/-- What the controller receives in LCD.INIT (R42, R153). -/
theorem initEvents_delivered (s : State) (hw : 1 ≤ s.cfg.panelW) (hh : 1 ≤ s.cfg.panelH) :
    (lcdEvents (initEvents s.cfg) s).delivered = s.delivered ++ initWords s.cfg := by
  obtain ⟨hmid, hshape⟩ := initSequence_shape s.cfg
  rw [← initSteps_flatten s.cfg hw hh, hshape,
    lcdEvents_delivered_between [.pinSetup, .lcdReset, .lcdSel] _ [.lcdDesel] s rfl rfl hmid rfl rfl,
    initMiddle_words s.cfg hw hh]

/-- Settles O25: LCD.INIT runs `initEvents`, which write the LCD part of the state alone. -/
theorem lcdInitRunsTheTable : Obligations.LcdInitRunsTheTable := by
  unfold Obligations.LcdInitRunsTheTable
  intro s hbusy hready hw hh
  have hrun := execLcdInit_events hbusy hready hw hh
  have hdelivered := initEvents_delivered s hw hh
  generalize initEvents s.cfg = es at *
  exact ⟨_, hrun, lcdEvents_traceF es s, rfl, hdelivered, lcdEvents_part es s true .nothing⟩

/-! ### LCD.FLUSH (R42, R160) -/

/-- What a Flush does between its selection and its deselection (R160). -/
def flushMiddle (c : Config) (r : Region) (buf : List Half) : List LcdEvent :=
  window c (clip c r) ++ cmdFrame c.cmdMemWrite [] ++ streamEvents (clippedRows r (clip c r) buf)

theorem flushEvents_eq_middle (c : Config) (r : Region) (buf : List Half) (hne : (clip c r).isEmpty = false) :
    flushEvents c r buf = [.lcdSel] ++ flushMiddle c r buf ++ [.lcdDesel, .flushDone] := by
  rw [flushEvents_nonEmpty c r buf hne, flushMiddle]
  simp only [cmdFrame, List.map_nil, List.append_assoc]

theorem flushMiddle_isWriteOrDelay (c : Config) (r : Region) (buf : List Half) :
    (flushMiddle c r buf).all isWriteOrDelay = true := by
  have hwrites : (flushMiddle c r buf).all isBusWrite = true := by
    rw [flushMiddle, List.all_append, List.all_append, streamEvents_isBusWrite]
    rfl
  rw [List.all_eq_true] at hwrites ⊢
  exact fun e he => by simp [isWriteOrDelay, hwrites e he]

/-- The words of a Flush: the window, the memory-write command, the pixel stream (R100, R106, R160). -/
theorem flushMiddle_words (c : Config) (r : Region) (buf : List Half) (l : Option Half) :
    streamWords l (flushMiddle c r buf) =
      frameWords c.cmdColAddr (boundBytes (boundHalf (clip c r).cx1) (boundHalf (clip c r).cx2)) ++
        frameWords c.cmdRowAddr (boundBytes (boundHalf (clip c r).cy1) (boundHalf (clip c r).cy2)) ++
        frameWords c.cmdMemWrite [] ++
        streamWords (some (c.cmdMemWrite.setWidth 16)) (streamEvents (clippedRows r (clip c r) buf)) := by
  rw [flushMiddle, window, boundFrame, boundFrame]
  simp only [List.append_assoc, streamWords_frame_append]
  rfl

/-- Settles O36: select and deselect deliver nothing, the window its frames, the pixel stream its rows. -/
theorem flushDeliversClippedPixels : Obligations.FlushDeliversClippedPixels := by
  unfold Obligations.FlushDeliversClippedPixels
  intro r buf s t hdc hne h
  obtain ⟨-, -, -, -, rfl⟩ := execLcdFlush_next h
  obtain ⟨hvalues, hdata⟩ := streamWords_rows (clippedRows r (clip s.cfg r) buf) (some (s.cfg.cmdMemWrite.setWidth 16))
  refine ⟨_, ?_, hvalues, hdata⟩
  rw [State.finish_delivered, flushEvents_eq_middle s.cfg r buf hne,
    lcdEvents_delivered_between [.lcdSel] _ [.lcdDesel, .flushDone] s rfl rfl (flushMiddle_isWriteOrDelay s.cfg r buf) rfl
      hdc, flushMiddle_words]
  simp only [List.append_assoc]

/-! ### Denoise and its ring (R28, R34, R35) -/

/-- Settles O42: the verdict is `denoiseRun_spec`'s; after the return the sampler is set idle and the ring dropped. -/
theorem samplerVerdict : Obligations.SamplerVerdict := by
  unfold Obligations.SamplerVerdict
  intro ch s hN
  obtain ⟨xs, hxs, hfsm, hrun, -, -, -⟩ := denoiseRun_spec ch s hN
  exact ⟨⟨xs, hrun.traceF, hxs, hfsm⟩, rfl, rfl, rfl⟩

/-- A filled ring holds its readings, none of them replaced yet (R199). -/
theorem fillRing_holds (ch : Channel) (s : State) (hN : 1 ≤ s.cfg.ringN) :
    ∃ win, holds s.cfg (fillRing s.cfg.ringN ch .empty s).1 win ∧ (fillRing s.cfg.ringN ch .empty s).1.oldest = 0 := by
  obtain ⟨rs, hlen, hring, -⟩ := fillRing_spec s.cfg.ringN ch .empty s
  rw [hring]
  exact ⟨_, ⟨by simpa [Ring.empty] using hlen, hN, by simp [Ring.empty], rfl⟩, rfl⟩

/-- Any number of replacements keeps a ring that holds a window, and moves `oldest` round once each (R35, R202). -/
theorem holds.replaceAll {c : Config} {g : Ring} {win : List Raw} (h : holds c g win) (rs : List Raw) :
    ∃ win', holds c (rs.foldl (replaceOldest c) g) win' ∧
      (rs.foldl (replaceOldest c) g).oldest = (g.oldest + rs.length) % c.ringN := by
  induction rs generalizing g win with
  | nil => exact ⟨win, h, (Nat.mod_eq_of_lt h.2.1).symm⟩
  | cons r rs ih =>
    cases win with
    | nil =>
      have hempty : 0 = g.entries.length := h.perm.length_eq
      obtain ⟨hlen, hlt, -, -⟩ := h
      omega
    | cons w win =>
      obtain ⟨win', hholds, hold⟩ := ih (h.replace r)
      refine ⟨win', hholds, ?_⟩
      rw [List.foldl_cons, hold, replaceOldest, Nat.mod_add_mod, List.length_cons, Nat.add_assoc, Nat.add_comm 1]

/-- Settles O43: after the fill and after each replacement the ring holds a window (`holds`); at the returning check it
holds the last one, whose mean is the result. -/
theorem ringSumAndOldest : Obligations.RingSumAndOldest := by
  unfold Obligations.RingSumAndOldest
  intro ch s hN
  constructor
  · intro rs
    obtain ⟨win, hfill, hzero⟩ := fillRing_holds ch s hN
    obtain ⟨win', ⟨hlen, -, hsum, -⟩, hold⟩ := hfill.replaceAll rs
    rw [hzero, Nat.zero_add] at hold
    exact ⟨hlen, hsum, hold⟩
  · obtain ⟨xs, hxs, -, hrun, -, -, g, hring, hholds, hold⟩ := denoiseRun_spec ch s hN
    have hmean : ringMeanRaw s.cfg g = (denoiseRun ch s).1 :=
      BitVec.eq_of_toNat_eq ((ringMeanRaw_toNat s.cfg g xs _ hholds).trans hxs.mean.symm)
    have hfills := hxs.fills
    obtain ⟨hlen, -, hsum, -⟩ := hholds
    refine ⟨xs, g.entries, xs.length - s.cfg.ringN + 1, by omega, hrun.traceF, by omega, hlen, ?_⟩
    rw [hring, Ring.checked, hold, hsum, hmean, Nat.add_sub_cancel]

/-! ### TCH.INIT (R51, R212) -/

theorem oriOf_eq_ofNat (f : Byte) : oriOf f = BitVec.ofNat 3 f.toNat := by
  apply BitVec.eq_of_toNat_eq
  simp [oriOf]

/-- The default scale in the 16.16 format: a sixteenth of the dimension's integer part (R113, R212). -/
theorem defaultScale_eq (d : Nat) : defaultScale d = BitVec.ofNat 32 (d * 16) := by
  have hratio : ratio d 4096 = d * 16 := by
    unfold ratio
    omega
  rw [defaultScale, hratio]

/-- Settles O49: with both checks passed TCH.INIT is its register writes, the default profile written out. -/
theorem tchInitResult : Obligations.TchInitResult := by
  unfold Obligations.TchInitResult
  intro x y f s hbusy hready hx1 hx2 hy1 hy2
  have hdims : (dimOk x && dimOk y) = true := by simp [dimOk, *]
  have hrun : execTchInit x y f s = .next (((((((tchSetup s).setTdim { x := x, y := y }).setOri (oriOf f)).setCal
      (defaultCal x y)).setPressed false).setTchReady true).finish .nothing) := by
    rw [execTchInit, issue_idle _ _ hbusy, State.setBusy_tchReady, hready, hdims]
    rfl
  rw [oriOf_eq_ofNat, defaultCal, defaultScale_eq, defaultScale_eq] at hrun
  refine hrun.trans (congrArg Host.Outcome.next ?_)
  apply State.ext_fields <;> simp [tchSetup, hbusy, Pins.apply, Pins.set]

end Sys2Proof.Machine
end

section
/-!
PROOFS. The statements on memory and what a Flush reads of it (20_memory.md): the buffer index (R63, R64), the window bounds
(R68, R106), the pixels a Flush streams (R76, R103), and which codes the block issues (R65).
-/

namespace Sys2Proof.Machine

/-! ### The clipped region (R157) -/

section Clip

variable {c : Config} {r : Region} {buf : List Half} {x y : Int}

/-- A non-empty clip is a rectangle inside the panel. -/
theorem clip_inside_panel (hne : (clip c r).isEmpty = false) :
    (0 ≤ (clip c r).cx1 ∧ (clip c r).cx1 ≤ (clip c r).cx2 ∧ (clip c r).cx2 < c.panelW) ∧
      0 ≤ (clip c r).cy1 ∧ (clip c r).cy1 ≤ (clip c r).cy2 ∧ (clip c r).cy2 < c.panelH := by
  have hordered : ¬ ((clip c r).cx1 > (clip c r).cx2 ∨ (clip c r).cy1 > (clip c r).cy2) := by
    rw [← clip_isEmpty_iff, hne]
    exact Bool.false_ne_true
  simp only [clip] at *
  omega

/-- A column of the clipped region is an offset within a row of the buffer. -/
theorem clip_column_offset (hx1 : (clip c r).cx1 ≤ x) (hx2 : x ≤ (clip c r).cx2) :
    0 ≤ x - r.x1.toInt ∧ x - r.x1.toInt < fullWidth r := by
  simp only [clip, fullWidth] at *
  omega

theorem clip_row_offset (hy1 : (clip c r).cy1 ≤ y) : 0 ≤ y - r.y1.toInt := by
  simp only [clip] at hy1
  omega

/-! ### The buffer index (R63, R64, R277) -/

theorem bufIndex_nonneg (hx1 : (clip c r).cx1 ≤ x) (hx2 : x ≤ (clip c r).cx2) (hy1 : (clip c r).cy1 ≤ y) :
    0 ≤ bufIndex r x y := by
  obtain ⟨hoffset, hwidth⟩ := clip_column_offset hx1 hx2
  exact add_nonneg (mul_nonneg (clip_row_offset hy1) (by omega)) hoffset

/-- The last point of the clipped region has its largest index. -/
theorem bufIndex_le_last (hx1 : (clip c r).cx1 ≤ x) (hx2 : x ≤ (clip c r).cx2) (hy2 : y ≤ (clip c r).cy2) :
    bufIndex r x y ≤ bufIndex r (clip c r).cx2 (clip c r).cy2 := by
  obtain ⟨hoffset, hwidth⟩ := clip_column_offset hx1 hx2
  exact add_le_add (mul_le_mul_of_nonneg_right (by omega) (by omega)) (by omega)

/-- The row and the column of a point are the quotient and the remainder of its index by the stride. -/
theorem bufIndex_ediv_emod (hx1 : (clip c r).cx1 ≤ x) (hx2 : x ≤ (clip c r).cx2) :
    bufIndex r x y / fullWidth r = y - r.y1.toInt ∧ bufIndex r x y % fullWidth r = x - r.x1.toInt := by
  obtain ⟨hoffset, hwidth⟩ := clip_column_offset hx1 hx2
  have hindex : x - r.x1.toInt + fullWidth r * (y - r.y1.toInt) = bufIndex r x y := by
    unfold bufIndex
    ring
  exact (Int.ediv_emod_unique (by omega)).2 ⟨hindex, hoffset, hwidth⟩

theorem bufIndex_injective {x' y' : Int} (hx1 : (clip c r).cx1 ≤ x) (hx2 : x ≤ (clip c r).cx2)
    (hx1' : (clip c r).cx1 ≤ x') (hx2' : x' ≤ (clip c r).cx2) (h : bufIndex r x' y' = bufIndex r x y) :
    x' = x ∧ y' = y := by
  obtain ⟨hrow, hcolumn⟩ := bufIndex_ediv_emod (y := y) hx1 hx2
  obtain ⟨hrow', hcolumn'⟩ := bufIndex_ediv_emod (y := y') hx1' hx2'
  rw [h] at hrow' hcolumn'
  omega

/-- Inside the buffer `memRead` is the element, not its default (R62). -/
theorem getElem?_eq_memRead {i : Int} (h0 : 0 ≤ i) (hlen : i < buf.length) : buf[i.toNat]? = some (memRead buf i) := by
  have hi : i.toNat < buf.length := by omega
  rw [memRead, List.getD_eq_getElem buf _ hi, List.getElem?_eq_getElem hi]

end Clip

/-- Settles O28: an index lies between 0 and the last point's; division by the stride gives the point back. -/
theorem flushReadsInsideBuffer : Obligations.FlushReadsInsideBuffer := by
  unfold Obligations.FlushReadsInsideBuffer
  intro c r buf _ hbuf x y hx1 hx2 hy1 hy2
  have hlong : bufIndex r (clip c r).cx2 (clip c r).cy2 < buf.length := of_decide_eq_true hbuf
  have hnonneg := bufIndex_nonneg hx1 hx2 hy1
  have hlast := bufIndex_le_last hx1 hx2 hy2
  exact ⟨hnonneg, hlast, getElem?_eq_memRead hnonneg (hlast.trans_lt hlong),
    fun _ _ hx1' hx2' _ _ h => bufIndex_injective hx1 hx2 hx1' hx2' h⟩

/-! ### The window bounds (R68, R106) -/

/-- A bound of sixteen bits goes over the bus unchanged. -/
theorem boundHalf_toNat {v : Int} (h0 : 0 ≤ v) (h : v < 65536) : ((boundHalf v).toNat : Int) = v := by
  rw [boundHalf, BitVec.toNat_ofInt]
  omega

/-- Settles O37: a non-empty clip lies inside the panel, whose coordinates fit sixteen bits. -/
theorem windowBoundsInsidePanel : Obligations.WindowBoundsInsidePanel := by
  unfold Obligations.WindowBoundsInsidePanel
  intro c r hw hh hne
  obtain ⟨⟨hx0, hx, hxw⟩, hy0, hy, hyh⟩ := clip_inside_panel hne
  have hx1 := boundHalf_toNat hx0 (by omega)
  have hx2 := boundHalf_toNat (hx0.trans hx) (by omega)
  have hy1 := boundHalf_toNat hy0 (by omega)
  have hy2 := boundHalf_toNat (hy0.trans hy) (by omega)
  exact ⟨by omega, by omega, by omega, by omega, hx1, hx2, hy1, hy2, fun _ _ => rfl, bytes_toNat⟩

/-! ### The pixels of a Flush (R76, R103) -/

/-- A command frame holds no pixel. -/
theorem recoverPixels_frame (code : Byte) (args : List Byte) (last : Option Half) (es : List LcdEvent) :
    recoverPixels last (cmdFrame code args ++ es) = recoverPixels last es := by
  induction args with
  | nil => rfl
  | cons a as ih => exact ih

theorem recoverPixels_window (c : Config) (k : Clip) (last : Option Half) (es : List LcdEvent) :
    recoverPixels last (window c k ++ es) = recoverPixels last es := by
  rw [window, boundFrame, boundFrame, List.append_assoc, recoverPixels_frame, recoverPixels_frame]

theorem clippedRows_nonEmpty {c : Config} {r : Region} {buf row : List Half} (hne : (clip c r).isEmpty = false)
    (hrow : row ∈ clippedRows r (clip c r) buf) : row ≠ [] := by
  obtain ⟨i, -, rfl⟩ := List.mem_map.1 hrow
  obtain ⟨⟨-, hx, -⟩, -⟩ := clip_inside_panel hne
  rw [← List.length_pos_iff, rowPixels_length, Clip.actWidth]
  omega

theorem recoverPixels_flushEvents {c : Config} {r : Region} (buf : List Half) (hne : (clip c r).isEmpty = false) :
    recoverPixels none (flushEvents c r buf) = (clippedRows r (clip c r) buf).flatten := by
  obtain ⟨last, hstream⟩ := recoverPixels_rows (clippedRows r (clip c r) buf) none [.lcdDesel, .flushDone]
    fun _ hrow => clippedRows_nonEmpty hne hrow
  calc recoverPixels none (flushEvents c r buf)
      = recoverPixels none (flushMiddle c r buf ++ [.lcdDesel, .flushDone]) := by
        rw [flushEvents_eq_middle c r buf hne]
        rfl
    _ = recoverPixels none (streamEvents (clippedRows r (clip c r) buf) ++ [.lcdDesel, .flushDone]) := by
        simp only [flushMiddle, List.append_assoc, recoverPixels_window, recoverPixels_frame]
    _ = (clippedRows r (clip c r) buf).flatten ++ recoverPixels last [.lcdDesel, .flushDone] := hstream
    _ = (clippedRows r (clip c r) buf).flatten := List.append_nil _

/-- Settles O35: a Flush runs `flushEvents`, which decode to the rows of the clipped region. -/
theorem flushTraceDecodesToPixels : Obligations.FlushTraceDecodesToPixels := by
  unfold Obligations.FlushTraceDecodesToPixels
  intro r buf s t hne h
  obtain ⟨-, -, -, -, rfl⟩ := execLcdFlush_next h
  exact ⟨flushEvents s.cfg r buf, lcdEvents_traceF _ s, recoverPixels_flushEvents buf hne⟩

/-! ### The codes the block issues (R65, R100, R118) -/

/-- A touch byte decodes exactly when it is one of the three (R111, R118). -/
theorem decodeTcb_spec (c : Config) (code : Byte) :
    (code ∈ c.touchCommands → ∃ i, decodeTcb c code = .ok i ∧ touchByteOf c i = some code) ∧
    (code ∉ c.touchCommands → decodeTcb c code = .error .notATouchCommand) := by
  simp only [Config.touchCommands, List.mem_cons, List.not_mem_nil, or_false, not_or]
  unfold decodeTcb
  constructor
  · intro h
    split_ifs with hx hy hpd
    · exact ⟨_, rfl, congrArg some hx.symm⟩
    · exact ⟨_, rfl, congrArg some hy.symm⟩
    · exact ⟨_, rfl, congrArg some hpd.symm⟩
    · simp [hx, hy, hpd] at h
  · rintro ⟨hx, hy, hpd⟩
    rw [if_neg hx, if_neg hy, if_neg hpd]

theorem decodeLbw_foreign {c : Config} {v : Half} (h : ∀ code ∈ c.lcdCommands, v ≠ code.setWidth 16) :
    decodeLbw c (0#1 ++ v) = .error .notAnLcdCommand := by
  rw [decodeLbw_command]
  split
  · next hhi =>
    exact (decodeLcf_spec c (loByte v) []).2 fun hmem => h _ hmem ((setWidth_bytes v _).2 ⟨hhi, rfl⟩)
  · rfl

theorem decodeLbw_zext (c : Config) (code : Byte) : decodeLbw c (0#1 ++ code.setWidth 16) = decodeLcf c code [] := by
  obtain ⟨hhi, hlo⟩ := (setWidth_bytes _ code).1 rfl
  rw [decodeLbw_command, if_pos hhi, hlo]

section Step

variable {s : State} {call : Call} {rest : List Call}

/-- A call that decodes is run (R260). -/
theorem step_of_decode_ok {i : Instr} (h : decode s.cfg call = .ok i) :
    step { s with calls := call :: rest } = exec i { s with calls := rest } := by
  simp only [step, h]
  rfl

theorem step_of_decode_error {why : Reject} (h : decode s.cfg call = .error why) :
    step { s with calls := call :: rest } = .refused (.notAnEncoding why) := by
  simp only [step, h]

/-- A call that decodes to an instruction with the property `p` runs such an instruction. -/
theorem step_of_exists_decode {p : Instr → Prop} (h : ∃ i, decode s.cfg call = .ok i ∧ p i) :
    ∃ i, p i ∧ step { s with calls := call :: rest } = exec i { s with calls := rest } := by
  obtain ⟨i, hdecode, hp⟩ := h
  exact ⟨i, hp, step_of_decode_ok hdecode⟩

end Step

/-- Settles O5: each form decodes exactly on the block's own codes, and a step follows the decoder. -/
theorem onlyForeignCodesRefused : Obligations.OnlyForeignCodesRefused := by
  unfold Obligations.OnlyForeignCodesRefused
  intro s rest
  refine ⟨fun code args h => ?_, fun code args h => ?_, fun code h => ?_, fun code h => ?_, fun v h => ?_,
    fun code h => ?_, fun v => ?_⟩
  · exact step_of_decode_error ((decodeLcf_spec s.cfg code args).2 h)
  · exact step_of_exists_decode ((decodeLcf_spec s.cfg code args).1 h)
  · exact step_of_decode_error ((decodeTcb_spec s.cfg code).2 h)
  · exact step_of_exists_decode ((decodeTcb_spec s.cfg code).1 h)
  · exact step_of_decode_error (decodeLbw_foreign h)
  · have hframe := (decodeLcf_spec s.cfg code []).1 h
    rw [← decodeLbw_zext] at hframe
    exact step_of_exists_decode hframe
  · exact step_of_decode_ok (decodeLbw_pixel s.cfg v)

end Sys2Proof.Machine
end

section
/-!
PROOFS. The statements on the encoding (30_encoding.md): the decoder and the encoder are inverse on the block's own calls
(R91, R92, R100 to R106, R111), which codes the block sends (R114, R117, R118), and what the frames it is made of do when
they are issued by themselves (R100, R101, R103, R111, R214; log entry 7).
-/

namespace Sys2Proof.Machine

/-! ### The encoder, format by format (R90) -/

/-- Every instruction has one of the five formats: OP, LCF, TCB, LBW with a pixel, or a repeat-strobe (R90). -/
theorem instr_formats (c : Config) (i : Instr) :
    (isOperation i || isReserved i) = true ∨ (∃ f, lcdFrameOf c i = some f) ∨ (∃ code, touchByteOf c i = some code) ∨
      (∃ p, i = .lcdPix p) ∨ i = .lcdRpt := by
  cases i with
  | lcdPix p => exact .inr (.inr (.inr (.inl ⟨p, rfl⟩)))
  | lcdRpt => exact .inr (.inr (.inr (.inr rfl)))
  | cmdTouchX | cmdTouchY | cmdTouchPd => exact .inr (.inr (.inl ⟨_, rfl⟩))
  | btpPulse | btpWlb | lcdInit | lcdFlush | tchInit | tchReadch | tchDenoise | tchPoll | mapOrient | mapApplycal
  | mapCalibrate | sysTick | reservedC | reservedD | reservedE | reservedF => exact .inl rfl
  | _ => exact .inr (.inl ⟨_, rfl⟩)

@[simp] theorem channelOfBit_bitOfChannel (ch : Channel) : channelOfBit (bitOfChannel ch) = ch := by
  cases ch <;> rfl

/-- A select code with the ports of its operation decodes to that operation (R91, R92, R114). -/
theorem decode_encode_operation (c : Config) {i : Instr} (hi : (isOperation i || isReserved i) = true) :
    decode c (encode c i) = .ok i := by
  cases i with
  | tchReadch ch | tchDenoise ch => simp [decode, encode, decodeOp]
  | btpPulse | btpWlb | lcdInit | lcdFlush | tchInit | tchPoll | mapOrient | mapApplycal | mapCalibrate | sysTick
  | reservedC | reservedD | reservedE | reservedF => rfl
  | _ => cases hi

/-- A frame row is encoded as its code and its argument bytes (R101). -/
theorem encode_frame {c : Config} {i : Instr} {code : Byte} {args : List Byte} (h : lcdFrameOf c i = some (code, args)) :
    encode c i = .lcf code args := by
  cases i <;> cases h <;> rfl

theorem encode_touchByte {c : Config} {i : Instr} {code : Byte} (h : touchByteOf c i = some code) :
    encode c i = .tcb code := by
  cases i <;> cases h <;> rfl

/-! ### Decoding the bus forms (R100, R101, R104, R106, R111) -/

@[simp] theorem givenArgs_self (own : List Byte) : givenArgs own own = none := if_pos rfl

/-- The low bound of a well-formed window command is two bytes (R106). -/
theorem boundsOk_length {lo hi : List Byte} (h : boundsOk lo hi = true) : lo.length = 2 := by
  unfold boundsOk at h
  split at h
  · rfl
  · cases h

/-- With the fifteen codes distinct, the frame of a well-formed row decodes to that row: no row above it in the table has
its code, and its operand is read back from the bytes (R101, R104, R106). -/
theorem decodeLcf_frame {c : Config} (hcodes : c.lcdCommands.Nodup) {i : Instr} (hwf : i.wf c = true) {code : Byte}
    {args : List Byte} (hframe : lcdFrameOf c i = some (code, args)) : decodeLcf c code args = .ok i := by
  have hdistinct := List.nodup_reverse.2 hcodes
  simp only [Config.lcdCommands, List.reverse_cons, List.reverse_nil, List.nil_append, List.cons_append, List.nodup_cons,
    List.mem_cons, List.not_mem_nil, or_false, not_or] at hdistinct
  cases i with
  | cmdColAddr lo hi | cmdRowAddr lo hi =>
    cases hframe
    have hlo : lo.length = 2 := boundsOk_length hwf
    simp only [decodeLcf, hdistinct, if_false, if_true, List.take_left' hlo, List.drop_left' hlo]
  | cmdPllCtrl | cmdDynBl =>
    cases hframe
    simp only [decodeLcf, hdistinct, if_false, if_true]
  | cmdPllMult | cmdSoftReset | cmdPclkDiv | cmdPanelSpec | cmdHsync | cmdVsync | cmdGpioMode | cmdPixelIf | cmdMemWrite
  | cmdDisplayOn | cmdBlPwm =>
    cases hframe
    obtain rfl := eq_of_beq hwf
    simp only [decodeLcf, hdistinct, if_false, if_true, Option.getD_none, givenArgs_self]
  | _ => cases hframe

/-- With the three touch bytes distinct, each decodes to its row (R111). -/
theorem decodeTcb_touchByte {c : Config} (hcodes : c.touchCommands.Nodup) {i : Instr} {code : Byte}
    (h : touchByteOf c i = some code) : decodeTcb c code = .ok i := by
  have hdistinct := List.nodup_reverse.2 hcodes
  simp only [Config.touchCommands, List.reverse_cons, List.reverse_nil, List.nil_append, List.cons_append, List.nodup_cons,
    List.mem_cons, List.not_mem_nil, or_false, not_or] at hdistinct
  cases i with
  | cmdTouchX | cmdTouchY | cmdTouchPd =>
    cases h
    simp only [decodeTcb, hdistinct, if_false, if_true]
  | _ => cases h

/-- Settles O1, format by format; a legal configuration has distinct codes. -/
theorem decodeEncodeRoundTrip : Obligations.DecodeEncodeRoundTrip := by
  unfold Obligations.DecodeEncodeRoundTrip
  intro c i hlegal hwf
  obtain ⟨-, -, -, -, -, hlcd, htouch, -⟩ := hlegal
  rcases instr_formats c i with hop | ⟨⟨code, args⟩, hframe⟩ | ⟨code, hbyte⟩ | ⟨p, rfl⟩ | rfl
  · exact decode_encode_operation c hop
  · rw [encode_frame hframe]
    exact decodeLcf_frame hlcd hwf hframe
  · rw [encode_touchByte hbyte]
    exact decodeTcb_touchByte htouch hbyte
  · exact decodeLbw_pixel c p
  · rfl

/-- A decoder that answers on known codes alone, each time with the property `p`, has `p` of whatever it decodes to. -/
theorem property_of_decoded {e : Except Reject Instr} {why : Reject} {known : Prop} {p : Instr → Prop} {i : Instr}
    (hspec : (known → ∃ j, e = .ok j ∧ p j) ∧ (¬ known → e = .error why)) (h : e = .ok i) : p i := by
  obtain ⟨hknown, hforeign⟩ := hspec
  by_cases hk : known
  · obtain ⟨j, hj, hp⟩ := hknown hk
    obtain rfl := Except.ok.inj (hj.symm.trans h)
    exact hp
  · rw [hforeign hk] at h
    cases h

/-- Arguments are read as they stand: a frame that decodes is the frame of the row it decodes to (R101, R104). -/
theorem decodeLcf_ok {c : Config} {code : Byte} {args : List Byte} {i : Instr} (h : decodeLcf c code args = .ok i) :
    lcdFrameOf c i = some (code, args) := property_of_decoded (decodeLcf_spec c code args) h

theorem decodeTcb_ok {c : Config} {code : Byte} {i : Instr} (h : decodeTcb c code = .ok i) :
    touchByteOf c i = some code := property_of_decoded (decodeTcb_spec c code) h

/-- A bus word that decodes is a pixel write if its `L_DC` is 1, and the `zext_16` of a command if it is 0 (R100, log
entry 21). -/
theorem decodeLbw_ok {c : Config} {word : BitVec 17} {i : Instr} (h : decodeLbw c word = .ok i) :
    (∃ p, word = 1#1 ++ p ∧ i = .lcdPix p) ∨
      ∃ code : Byte, word = 0#1 ++ code.setWidth 16 ∧ lcdFrameOf c i = some (code, []) := by
  obtain ⟨dc, v, rfl⟩ : ∃ (dc : Bool) (v : Half), word = BitVec.ofBool dc ++ v :=
    ⟨_, _, (busWord_split word).symm⟩
  cases dc
  · change decodeLbw c (0#1 ++ v) = .ok i at h
    rw [decodeLbw_command] at h
    split at h
    · next hhi => exact .inr ⟨loByte v, congrArg (0#1 ++ ·) ((setWidth_bytes v _).2 ⟨hhi, rfl⟩), decodeLcf_ok h⟩
    · cases h
  · exact .inl ⟨v, rfl, (Except.ok.inj ((decodeLbw_pixel c v).symm.trans h)).symm⟩

/-- Settles O2: what a bus form decodes to has that form's bits, and the encoder writes them out again. -/
theorem busFormsHaveOneMeaning : Obligations.BusFormsHaveOneMeaning := by
  unfold Obligations.BusFormsHaveOneMeaning
  intro c i
  refine ⟨fun code args h => encode_frame (decodeLcf_ok h), fun code h => encode_touchByte (decodeTcb_ok h),
    fun word h => ?_, fun h => ?_⟩
  · rcases decodeLbw_ok h with ⟨p, rfl, rfl⟩ | ⟨code, hword, hframe⟩
    · exact .inl rfl
    · exact .inr ⟨code, hword, encode_frame hframe⟩
  · obtain rfl := Except.ok.inj h
    rfl

/-- Settles O3: each word is run through the decoder. -/
theorem writtenOutWordsDecode : Obligations.WrittenOutWordsDecode :=
  ⟨rfl, rfl, rfl, rfl, rfl, rfl, rfl, rfl, rfl, rfl, rfl⟩

/-- Select codes 0xC to 0xF name no operation (R114). -/
theorem decodeOp_reserved {select : BitVec 4} (p : Ports) (h : 0xC ≤ select.toNat) :
    isReserved (decodeOp select p) = true := by
  have hlt := select.isLt
  have hcodes : select.toNat = 0xC ∨ select.toNat = 0xD ∨ select.toNat = 0xE ∨ select.toNat = 0xF := by omega
  unfold decodeOp
  rcases hcodes with hc | hc | hc | hc <;> rw [hc] <;> rfl

/-- Settles O4: the four codes decode to reserved rows, and a reserved row is refused. -/
theorem reservedCodesRefused : Obligations.ReservedCodesRefused := by
  unfold Obligations.ReservedCodesRefused
  refine ⟨fun s select p rest h => ?_, fun s => ⟨?_, ?_, ?_, ?_⟩⟩
  · rw [step_of_decode_ok (i := decodeOp select p) rfl]
    exact exec_reserved (decodeOp_reserved p h)
  all_goals exact exec_reserved rfl

/-! ### The codes an instruction sends (R117, R118) -/

/-- What a completed instruction adds to the level-F trace: the events of its LCD script, or touch events whose exchanges
all send one of the three bytes (R8, R118). -/
theorem exec_traceF {i : Instr} {s t : State} (h : exec i s = .next t) :
    (∃ es, lcdScript s i = some es ∧ t.traceF = s.traceF ++ es.map .lcd) ∨
    (∃ es : List TchEvent, t.traceF = s.traceF ++ es.map .tch ∧
      ∀ code r, TchEvent.tchXchg code r ∈ es → code ∈ s.cfg.touchCommands) := by
  cases exec_completed h with
  | lcd es script => exact .inl ⟨es, script, lcdEvents_traceF es s⟩
  | touch _ _ u p r _ shape =>
    obtain ⟨es, hrun, hcodes⟩ := shape.run
    exact .inr ⟨es, hrun.traceF, hcodes⟩
  | tchInit => exact .inr ⟨[.tchSetup], rfl, by simp⟩
  | mapCalibrate | pure => exact .inr ⟨[], (List.append_nil _).symm, by simp⟩

/-- Settles O7: an LCD script makes no exchange, and the exchanges of touch work send the block's own bytes. -/
theorem onlyThreeTouchBytesSent : Obligations.OnlyThreeTouchBytesSent := by
  unfold Obligations.OnlyThreeTouchBytesSent
  intro i s t h
  rcases exec_traceF h with ⟨es, -, htrace⟩ | ⟨es, htrace, hcodes⟩
  · exact ⟨_, htrace, by simp⟩
  · exact ⟨_, htrace, fun code r hmem => hcodes code r (by simpa using hmem)⟩

theorem lcdFrameOf_notOperation {c : Config} {i : Instr} {f : Byte × List Byte} (h : lcdFrameOf c i = some f) :
    isOperation i = false := by
  cases i <;> cases h <;> rfl

/-- An operation issues the fourteen commands before `CMD_DYN_BL` alone; a frame row issues its own (R104, R117). -/
theorem lcdScript_command {s : State} {i : Instr} {es : List LcdEvent} {code : Byte} (hscript : lcdScript s i = some es)
    (hmem : LcdEvent.lcdCmd code ∈ es) :
    code ∈ s.cfg.lcdCommands.dropLast ∨ (isOperation i = false ∧ code ∈ s.cfg.lcdCommands) := by
  rcases lcdScript_cases hscript with ⟨-, rfl⟩ | ⟨r, buf, -, rfl⟩ | ⟨p, -, rfl⟩ | ⟨-, rfl⟩ | ⟨v, -, rfl⟩ | ⟨f, hf, rfl, -⟩
  · exact .inl (initSequence_commands s.cfg code hmem)
  · rcases flushEvents_commands _ _ _ _ hmem with rfl | rfl | rfl <;> simp [Config.lcdCommands]
  · simp at hmem
  · simp at hmem
  · rcases writeEvent_cases s.pin.lDc v with hw | hw <;> simp [hw] at hmem
  · obtain rfl := cmdFrame_command hmem
    exact .inr ⟨lcdFrameOf_notOperation hf, lcdFrameOf_command hf⟩

/-- With the fifteen codes distinct, `CMD_DYN_BL` is none of the fourteen before it (R104). -/
theorem cmdDynBl_notMem {c : Config} (h : c.lcdCommands.Nodup) : c.cmdDynBl ∉ c.lcdCommands.dropLast :=
  ((List.nodup_concat c.lcdCommands.dropLast c.cmdDynBl).1 h).1

/-- Settles O8: the commands of a script are `lcdScript_command`; touch events are no commands. -/
theorem onlyKnownCommandsIssued : Obligations.OnlyKnownCommandsIssued := by
  unfold Obligations.OnlyKnownCommandsIssued
  intro i s t h
  rcases exec_traceF h with ⟨es, hscript, htrace⟩ | ⟨es, htrace, -⟩
  · refine ⟨_, htrace, fun code hmem => ?_, fun hlegal hop hmem => ?_⟩
    · rcases lcdScript_command hscript (by simpa using hmem) with hc | ⟨-, hc⟩
      · exact List.mem_of_mem_dropLast hc
      · exact hc
    · obtain ⟨-, -, -, -, -, hdistinct, -⟩ := hlegal
      rcases lcdScript_command hscript (by simpa using hmem) with hc | ⟨hno, -⟩
      · exact cmdDynBl_notMem hdistinct hc
      · rw [hop] at hno
        cases hno
  · exact ⟨_, htrace, by simp, by simp⟩

/-! ### LCD command frames and pixel writes issued by themselves (R100, R101, R103, R136) -/

/-- After a command frame the latch holds its last byte (R41, R136). -/
theorem cmdFrame_latch (code : Byte) (args : List Byte) (l : Option Half) :
    (cmdFrame code args).foldl latchAfter l = some ((args.getLastD code).setWidth 16) := by
  change (args.map LcdEvent.lcdData).foldl latchAfter (some (code.setWidth 16)) = _
  induction args generalizing code with
  | nil => rfl
  | cons a as ih => exact (ih a).trans (by rw [List.getLastD_cons])

/-- A frame delivers its words whatever `L_DC` is before it: the command drives the line itself (R100, R136). -/
theorem cmdFrame_delivered (code : Byte) (args : List Byte) {s : State} (hcs : s.pin.lCs = some true) :
    (lcdEvents (cmdFrame code args) s).delivered = s.delivered ++ frameWords code args := by
  have hcommand : (lcdEvent s (.lcdCmd code)).delivered = s.delivered ++ eventWords s.latch (.lcdCmd code) := by
    simp [lcdEvent, lcdDrive, writeLatched, latchValue, pulse, strobeDelivers, eventWords, pulseEvents, latchEvents,
      Pins.apply, Pins.set, hcs]
  have hselected : (lcdEvent s (.lcdCmd code)).pin.lCs = some true := by
    rw [lcdEvent_pin, (busWrite_lines s.pin (.lcdCmd code) rfl).1, hcs]
  have hdata : (lcdEvent s (.lcdCmd code)).pin.lDc = some true := by
    rw [lcdEvent_pin]
    rfl
  rw [cmdFrame, lcdEvents_cons, lcdEvents_delivered (args.map .lcdData) _ (by simp [isBusWrite]) hselected hdata,
    hcommand, lcdEvent_latch, List.append_assoc, ← streamWords, ← cmdFrame, streamWords_frame]

/-- `lcdEvents_part` for a script that is not LCD.INIT's: the unit's flag is left alone too (R27, R150). -/
theorem lcdEvents_finish_part (es : List LcdEvent) (s : State) (r : Result) :
    (lcdEvents es s).finish r = lcdPart s ((lcdEvents es s).finish r) := by
  have hpart := lcdEvents_part es s (s.lcdReady || false) r
  rw [setLcdReady_lcdEvents, Bool.or_false] at hpart
  exact hpart

/-- Settles O58: a frame row runs `cmdFrame`; its trace, words, latch and lines have a lemma each. -/
theorem lcdFramesComplete : Obligations.LcdFramesComplete := by
  unfold Obligations.LcdFramesComplete
  intro i s code args hframe hbusy hready hcs
  have hexec := (exec_frame hframe).trans (lcdFrame_ok hbusy hready hcs)
  have hdelivered := cmdFrame_delivered code args hcs
  have hlatch := cmdFrame_latch code args s.latch
  have hpins := cmdFrame_pins code args s.pin
  rw [← lcdEvents_latch] at hlatch
  rw [← lcdEvents_pin, ← hlatch] at hpins
  rw [← cmdFrame] -- the frame's events are opaque from here on: its lemmas say all that is needed
  generalize cmdFrame code args = es at *
  exact ⟨_, hexec, lcdEvents_traceF es s, hdelivered, hlatch, hpins, rfl, lcdEvents_finish_part es s .nothing⟩

/-- One bus write on a selected controller, `L_DC` at rest: the whole state after it (R42, R100, R136). -/
theorem busWrite_finish {s : State} {e : LcdEvent} (he : isBusWrite e = true) (hbusy : s.busy = false)
    (hcs : s.pin.lCs = some true) (hdc : s.pin.lDc = some true) :
    (lcdEvent s e).finish .nothing =
      { s with
        fsm := .idle
        work := .idle
        pin := e.levelP.foldl Pins.apply s.pin
        latch := latchAfter s.latch e
        result := .nothing
        traceF := s.traceF ++ [.lcd e]
        traceP := s.traceP ++ e.levelP
        delivered := s.delivered ++ eventWords s.latch e } := by
  apply State.ext_fields <;> simp [hbusy, lcdEvent_delivered s e he hcs hdc]

/-- Settles O59: each is one bus write, whose lines, latch and words the table of R136 gives. -/
theorem pixelWritesComplete : Obligations.PixelWritesComplete := by
  unfold Obligations.PixelWritesComplete
  intro s p v hbusy hready hcs hdc
  refine ⟨?_, fun hlatch => ?_⟩
  · change execLcdPix p s = _
    rw [execLcdPix, withBus_ok hbusy hready hcs, complete, lcdEvent_setBusy, finish_setBusy,
      busWrite_finish rfl hbusy hcs hdc]
    rfl
  · change execLcdRpt s = _
    rw [execLcdRpt, withBus_ok hbusy hready hcs, State.setBusy_latch, hlatch, Option.isNone_some, refuseIf_false,
      complete, lcdEvent_setBusy, finish_setBusy, busWrite_finish rfl hbusy hcs hdc, hlatch]
    rfl

/-! ### Touch exchanges issued by themselves (R111, R196, R210, R214) -/

/-- `TouchRun.part` for touch work that is not a poll: no previous press is written (R26, R190). -/
theorem TouchRun.finish_part {es : List TchEvent} {s u : State} (h : TouchRun es s u) (r : Result) :
    u.finish r = touchPart s (u.finish r) := by
  have hpart := h.part s.prevPressed r
  rw [setPressed_self h.frame.prevPressed] at hpart
  exact hpart

/-- Settles O39: TCH.READCH is one bracketed exchange (`execTchReadch_ok`). -/
theorem readChannelResult : Obligations.ReadChannelResult := by
  unfold Obligations.ReadChannelResult
  intro ch s hbusy hready
  obtain ⟨r, u, hrun, hcs, hclk, hdo, hexec, hsupplied⟩ := execTchReadch_ok ch hbusy hready
  rw [setPressed_self hrun.frame.prevPressed] at hexec
  refine ⟨r, u.finish (.raw r), hexec, rfl, ?_, hcs, hclk, hdo, hrun.finish_part _, hsupplied⟩
  rw [State.finish_traceF, hrun.traceF]
  cases ch <;> rfl

/-- A touch row is one exchange of its byte; the result of the power-down variant is discarded (R111, R210). -/
theorem exec_touchByte {i : Instr} {s : State} {code : Byte} (h : touchByteOf s.cfg i = some code) :
    exec i s = touchFrame code (fun r => if i = .cmdTouchPd then .nothing else .raw r) s := by
  cases i <;> cases h <;> rfl

/-- One exchange, inside the session if one is open, bracketed otherwise (R196, R214; log entry 7). -/
theorem touchFrame_ok (code : Byte) (report : Raw → Result) {s : State} (hbusy : s.busy = false)
    (hready : s.tchReady = true) :
    ∃ r u, TouchRun (if s.pin.tCs = some true then [.tchXchg code r] else [.tchSel, .tchXchg code r, .tchDesel]) s u ∧
      u.pin.tCs = (if s.pin.tCs = some true then some true else some false) ∧
      touchFrame code report s = .next (u.finish (report r)) := by
  unfold touchFrame
  rw [issue_idle _ _ hbusy, State.setBusy_tchReady, hready]
  by_cases hcs : s.pin.tCs = some true
  · have hrun := (exchange_run code (s.setBusy true)).setBusy
    simp only [if_pos hcs]
    exact ⟨_, _, hrun, (exchange_pins code (s.setBusy true)).1.trans hcs, if_pos hcs⟩
  · have hrun := (((tchSel_run (s.setBusy true)).trans (exchange_run code _)).trans (tchDesel_run _)).setBusy
    simp only [if_neg hcs]
    exact ⟨_, _, hrun, rfl, if_neg hcs⟩

/-- Settles O60: a touch row is `touchFrame` of its byte. -/
theorem touchFramesComplete : Obligations.TouchFramesComplete := by
  unfold Obligations.TouchFramesComplete
  intro i s code hbyte hbusy hready
  obtain ⟨r, u, hrun, hcs, hexec⟩ :=
    touchFrame_ok code (fun r => if i = .cmdTouchPd then .nothing else .raw r) hbusy hready
  refine ⟨r, _, (exec_touchByte hbyte).trans hexec, rfl, ?_, hcs, hrun.finish_part _⟩
  rw [State.finish_traceF, hrun.traceF]
  split <;> rfl

end Sys2Proof.Machine
end

section
/-!
PROOFS. The statements on the bus (40_bus_timing.md): the expansion of each LCD event (R136), and the two bus primitives
issued by themselves, on a selected controller (R131, R134) and at an operation boundary (R132, R276).
-/

namespace Sys2Proof.Machine

/-! ### LCD events at level P (R136) -/

/-- Settles O23: the three laws of `lcdEvent`, whose right-hand sides compute to the row of each event. -/
theorem lcdEventExpansion : Obligations.LcdEventExpansion := by
  unfold Obligations.LcdEventExpansion
  intro s e
  refine ⟨lcdEvent_traceP s e, ?_⟩
  cases e <;> exact ⟨lcdEvent_pin s _, lcdEvent_latch s _⟩

/-! ### What one strobe delivers (R42) -/

/-- A selected controller receives the latched value, as `L_DC` says; without a value on that line, nothing. -/
theorem strobeDelivers_selected {s : State} {v : Half} (kind : StrobeKind) (hcs : s.pin.lCs = some true)
    (hlatch : s.latch = some v) :
    strobeDelivers s kind = (match s.pin.lDc with
      | some dc => [{ dc := dc, value := v, kind := kind }]
      | none => []) := by
  rw [strobeDelivers, hcs, hlatch]
  cases s.pin.lDc <;> rfl

/-- A repeat-strobe delivers what the latch holds (R103). -/
theorem lcdRpt_delivered (s : State) :
    (lcdEvent s .lcdRpt).delivered = s.delivered ++ strobeDelivers s .repeated := rfl

/-- A write delivers with the latch already holding the value (R134). -/
theorem writeEvent_delivered (dc : Option Bool) (v : Half) (s : State) :
    (lcdEvent s (writeEvent dc v)).delivered = s.delivered ++ strobeDelivers (s.setLatch v) .latched := by
  rcases writeEvent_cases dc v with h | h <;> rw [h] <;> rfl

/-! ### One event of an operation issued by itself (R131, R134) -/

theorem writeEvent_levelP (dc : Option Bool) (v : Half) : (writeEvent dc v).levelP = levelWL v := by
  rcases writeEvent_cases dc v with h | h <;> rw [h] <;> rfl

theorem latchAfter_writeEvent (l : Option Half) (dc : Option Bool) (v : Half) :
    latchAfter l (writeEvent dc v) = some v := by
  rcases writeEvent_cases dc v with h | h <;> rw [h] <;> rfl

/-- The whole state after an operation of one LCD event, whatever level `L_DC` has (`busWrite_finish` is the case of
`L_DC` at rest). -/
theorem lcdEvent_finish {s : State} {e : LcdEvent} {words : List BusWord} (hbusy : s.busy = false)
    (hdelivered : (lcdEvent s e).delivered = s.delivered ++ words) :
    (lcdEvent s e).finish .nothing =
      { s with
        fsm := .idle
        work := .idle
        pin := e.levelP.foldl Pins.apply s.pin
        latch := latchAfter s.latch e
        result := .nothing
        traceF := s.traceF ++ [.lcd e]
        traceP := s.traceP ++ e.levelP
        delivered := s.delivered ++ words } := by
  apply State.ext_fields <;> simp [hbusy, hdelivered]

theorem exec_btpPulse (s : State) : exec .btpPulse s = execBtpPulse s := rfl

theorem exec_btpWlb (v : Half) (s : State) : exec (.btpWlb v) s = execBtpWlb v s := rfl

/-- Settles O20: the strobe runs one repeat-strobe event, which delivers the latched value. -/
theorem btpPulseResult : Obligations.BtpPulseResult := by
  unfold Obligations.BtpPulseResult
  intro s v hbusy hready hcs hlatch
  have hdelivered := lcdRpt_delivered s
  rw [strobeDelivers_selected _ hcs hlatch] at hdelivered
  rw [exec_btpPulse, execBtpPulse, withBus_ok hbusy hready hcs, State.setBusy_latch, hlatch, Option.isNone_some,
    refuseIf_false, complete, lcdEvent_setBusy, finish_setBusy, lcdEvent_finish hbusy hdelivered, hlatch]
  rfl

/-- Settles O21: the write runs one `writeEvent`, which latches the value and delivers it. -/
theorem btpWlbResult : Obligations.BtpWlbResult := by
  unfold Obligations.BtpWlbResult
  intro s v hbusy hready hcs
  have hdelivered := writeEvent_delivered s.pin.lDc v s
  rw [strobeDelivers_selected (s := s.setLatch v) _ hcs rfl] at hdelivered
  rw [exec_btpWlb, execBtpWlb, withBus_ok hbusy hready hcs, State.setBusy_pin, complete, lcdEvent_setBusy,
    finish_setBusy, lcdEvent_finish hbusy hdelivered, writeEvent_levelP, latchAfter_writeEvent]
  rfl

/-! ### At an operation boundary (R132, R276, R278) -/

theorem withBus_notReady {s : State} (body : State → Out) (hbusy : s.busy = false) (hready : s.lcdReady = false) :
    withBus s body = .refused .notInitialised := by
  rw [withBus, issue_idle _ _ hbusy, State.setBusy_lcdReady, hready, Bool.not_false, refuseIf_true]

theorem withBus_notSelected {s : State} (body : State → Out) (hbusy : s.busy = false) (hready : s.lcdReady = true)
    (hcs : s.pin.lCs ≠ some true) : withBus s body = .refused .notSelected := by
  rw [withBus, issue_idle _ _ hbusy, State.setBusy_lcdReady, hready, Bool.not_true, refuseIf_false, State.setBusy_pin,
    decide_eq_true hcs, refuseIf_true]

/-- Settles O22: the invariant has the block idle and the controller deselected, and both operations run `withBus`. -/
theorem btpNeverIssuableAtBoundary : Obligations.BtpNeverIssuableAtBoundary := by
  unfold Obligations.BtpNeverIssuableAtBoundary
  intro s v hinv
  obtain ⟨hbusy, -, -⟩ := hinv.1
  obtain ⟨hcs, -⟩ := Inv.deselected s hinv
  rw [exec_btpPulse, exec_btpWlb, execBtpPulse, execBtpWlb]
  exact ⟨fun hready => ⟨withBus_notSelected _ hbusy hready hcs, withBus_notSelected _ hbusy hready hcs⟩,
    fun hready => ⟨withBus_notReady _ hbusy hready, withBus_notReady _ hbusy hready⟩⟩

end Sys2Proof.Machine
end

section
/-!
PROOFS. The statements on the LCD controller (41_lcd_controller.md): the clip (R157, R158), what LCD.FLUSH emits and when
it signals completion (R159, R160, R164), the run code of a row and its counts (R162, R163), the size of a Flush (R168).
-/

namespace Sys2Proof.Machine

/-! ### The clip (R157, R158) -/

theorem mem_clip_iff (c : Config) (r : Region) (x y : Int) :
    ((clip c r).cx1 ≤ x ∧ x ≤ (clip c r).cx2 ∧ (clip c r).cy1 ≤ y ∧ y ≤ (clip c r).cy2) ↔
      ((r.x1.toInt ≤ x ∧ x ≤ r.x2.toInt ∧ r.y1.toInt ≤ y ∧ y ≤ r.y2.toInt) ∧
        (0 ≤ x ∧ x < c.panelW ∧ 0 ≤ y ∧ y < c.panelH)) := by
  simp only [clip]
  omega

/-- A clip with its bounds in order holds the corner they meet at. -/
theorem Clip.isEmpty_iff_no_point (k : Clip) :
    k.isEmpty = true ↔ ¬ ∃ x y : Int, k.cx1 ≤ x ∧ x ≤ k.cx2 ∧ k.cy1 ≤ y ∧ y ≤ k.cy2 := by
  rw [clip_isEmpty_iff]
  constructor
  · rintro hinverted ⟨x, y, hx1, hx2, hy1, hy2⟩
    omega
  · intro hnone
    by_contra hordered
    exact hnone ⟨k.cx1, k.cy1, by omega⟩

/-- Settles O27: membership by `mem_clip_iff`; an empty clip is one without a point. -/
theorem clipIsIntersection : Obligations.ClipIsIntersection := by
  unfold Obligations.ClipIsIntersection
  intro c r
  have hmem := mem_clip_iff c r
  refine ⟨hmem, ?_⟩
  rw [Clip.isEmpty_iff_no_point]
  simp only [hmem]

/-! ### What LCD.FLUSH emits (R159, R160, R164) -/

theorem exec_lcdFlush (r : Region) (buf : List Half) (s : State) :
    exec (.lcdFlush r buf) s = execLcdFlush r buf s := rfl

/-- Settles O29: past its refusals LCD.FLUSH runs `flushEvents`, which write the LCD part of the state alone. -/
theorem flushRunsThePseudocode : Obligations.FlushRunsThePseudocode := by
  unfold Obligations.FlushRunsThePseudocode
  intro r buf s hbusy hready hcallback hbuf
  have hrun := execLcdFlush_ok hbusy hready hcallback hbuf
  rw [exec_lcdFlush]
  generalize flushEvents s.cfg r buf = es at *
  exact ⟨_, hrun, lcdEvents_traceF es s, rfl, lcdEvents_finish_part es s .nothing⟩

theorem flushEvents_empty {c : Config} {r : Region} (buf : List Half) (hempty : (clip c r).isEmpty = true) :
    flushEvents c r buf = [.flushDone] := if_pos hempty

/-- Settles O30: the script is the completion event, which is no bus write and moves no line. -/
theorem flushEmptyRegion : Obligations.FlushEmptyRegion := by
  unfold Obligations.FlushEmptyRegion
  intro r buf s hbusy hready hcallback hinverted
  have hempty := (clip_isEmpty_iff _).2 hinverted
  have hquiet : (lcdEvent s .flushDone).delivered = s.delivered ++ [] := by
    rw [lcdEvent_quiet s .flushDone rfl, List.append_nil]
  rw [exec_lcdFlush, execLcdFlush_ok hbusy hready hcallback (.inl hempty), flushEvents_empty buf hempty,
    ← lcdEvents_one, lcdEvent_finish hbusy hquiet, List.append_nil]
  rfl

theorem flushDone_not_mem_flushMiddle (c : Config) (r : Region) (buf : List Half) :
    .flushDone ∉ flushMiddle c r buf := fun hmem =>
  Bool.false_ne_true (List.all_eq_true.1 (flushMiddle_isWriteOrDelay c r buf) _ hmem)

/-- The completion event ends the events of a Flush and is nowhere else among them; a deselection precedes it on the
non-empty path (R164). -/
theorem flushEvents_flushDone_last (c : Config) (r : Region) (buf : List Half) :
    ∃ es, flushEvents c r buf = es ++ [.flushDone] ∧ .flushDone ∉ es ∧
      ((clip c r).isEmpty = false → ∃ fs, es = fs ++ [.lcdDesel]) := by
  cases hempty : (clip c r).isEmpty with
  | true => exact ⟨[], flushEvents_empty buf hempty, List.not_mem_nil, nofun⟩
  | false =>
    refine ⟨[.lcdSel] ++ flushMiddle c r buf ++ [.lcdDesel], ?_, ?_, fun _ => ⟨_, rfl⟩⟩
    · exact (flushEvents_eq_middle c r buf hempty).trans (List.append_assoc _ [LcdEvent.lcdDesel] [.flushDone]).symm
    · simp [flushDone_not_mem_flushMiddle]

/-- Settles O31: the trace of a Flush is `flushEvents`, of which `flushEvents_flushDone_last` says it. -/
theorem flushSignalsOnce : Obligations.FlushSignalsOnce := by
  unfold Obligations.FlushSignalsOnce
  intro r buf s t h
  obtain ⟨-, -, -, -, rfl⟩ := execLcdFlush_next h
  obtain ⟨es, hes, honce, hdesel⟩ := flushEvents_flushDone_last s.cfg r buf
  refine ⟨es.map .lcd, ?_, by simpa using honce, fun hne => ?_⟩
  · rw [State.finish_traceF, lcdEvents_traceF, hes, List.map_append, List.append_assoc]
    rfl
  · obtain ⟨fs, rfl⟩ := hdesel hne
    exact ⟨fs.map .lcd, List.map_append⟩

/-! ### The run code and its counts (R162, R163) -/

/-- Settles O32: `runCode_after` for a row with no pixel before it; its first pixel equals none. -/
theorem runRule : Obligations.RunRule := by
  unfold Obligations.RunRule
  intro row
  rw [runCode_after]
  refine List.map_congr_left fun j hj => ?_
  have hlt : j < row.length := List.mem_range.1 hj
  cases j with
  | zero => simp [List.getElem?_eq_getElem hlt]
  | succ j => simp

theorem newValueWrites_append (es fs : List LcdEvent) :
    newValueWrites (es ++ fs) = newValueWrites es + newValueWrites fs := List.countP_append

theorem repeatStrobes_append (es fs : List LcdEvent) :
    repeatStrobes (es ++ fs) = repeatStrobes es + repeatStrobes fs := List.countP_append

theorem newValueWrites_streamEvents (rows : List (List Half)) :
    newValueWrites (streamEvents rows) = (rows.map fun row => newValueWrites (runCode none row)).sum :=
  List.countP_flatMap

theorem repeatStrobes_streamEvents (rows : List (List Half)) :
    repeatStrobes (streamEvents rows) = (rows.map fun row => repeatStrobes (runCode none row)).sum :=
  List.countP_flatMap

theorem newValueWrites_runCode_cons (p : Half) (row : List Half) :
    newValueWrites (runCode none (p :: row)) = 1 + newValueWrites (runCode (some p) row) :=
  newValueWrites_append [.lcdPix p] (runCode (some p) row)

/-- A row that goes on in the colour before it is repeat-strobes alone. -/
theorem runCode_replicate (m : Nat) (p : Half) :
    runCode (some p) (List.replicate m p) = List.replicate m .lcdRpt := by
  induction m with
  | zero => rfl
  | succ m ih => rw [List.replicate_succ, runCode, if_pos rfl, ih, List.replicate_succ]

/-- A constant-colour row has one new-value write (R163). -/
theorem runCode_constant_counts (m : Nat) (p : Half) :
    newValueWrites (runCode none (List.replicate (m + 1) p)) = 1 ∧
      repeatStrobes (runCode none (List.replicate (m + 1) p)) = m := by
  have hnew : newValueWrites (runCode none (List.replicate (m + 1) p)) = 1 := by
    rw [List.replicate_succ, newValueWrites_runCode_cons, runCode_replicate]
    simp [newValueWrites, isNewValue]
  have hall := runCode_counts (List.replicate (m + 1) p) none
  rw [List.length_replicate] at hall
  exact ⟨hnew, by omega⟩

/-- Settles O33: a row by `newValueWrites_run` after its first pixel; rows are counted one by one. -/
theorem runCounts : Obligations.RunCounts := by
  unfold Obligations.RunCounts
  refine ⟨fun p row => ⟨?_, ?_⟩,
    fun rows => ⟨newValueWrites_streamEvents rows, repeatStrobes_streamEvents rows⟩, fun n m p => ?_⟩
  · rw [newValueWrites_runCode_cons, newValueWrites_run]
  · rw [Nat.add_comm, runCode_counts, List.length_cons]
  · obtain ⟨hnew, hrepeat⟩ := runCode_constant_counts m p
    rw [newValueWrites_streamEvents, repeatStrobes_streamEvents, List.map_replicate, List.map_replicate, hnew, hrepeat]
    simp

/-! ### The size of a Flush (R168) -/

/-- A pixel stream has as many writes as its rows have pixels (R163). -/
theorem streamEvents_counts (rows : List (List Half)) :
    newValueWrites (streamEvents rows) + repeatStrobes (streamEvents rows) = rows.flatten.length := by
  rw [newValueWrites_streamEvents, repeatStrobes_streamEvents, ← List.sum_map_add, List.length_flatten]
  simp only [runCode_counts]

theorem clippedRows_flatten_length (r : Region) (k : Clip) (buf : List Half) :
    (clippedRows r k buf).flatten.length = k.rows.toNat * k.actWidth.toNat := by
  simp [clippedRows, List.length_flatten, Function.comp_def, rowPixels_length]

section Size

variable {c : Config} {r : Region} (buf : List Half) (hne : (clip c r).isEmpty = false)
include hne

/-- Only the pixel stream of a Flush writes pixels (R160). -/
theorem flushEvents_counts :
    newValueWrites (flushEvents c r buf) = newValueWrites (streamEvents (clippedRows r (clip c r) buf)) ∧
      repeatStrobes (flushEvents c r buf) = repeatStrobes (streamEvents (clippedRows r (clip c r) buf)) := by
  rw [flushEvents_nonEmpty c r buf hne]
  simp only [newValueWrites_append, repeatStrobes_append]
  exact ⟨Nat.zero_add _, Nat.zero_add _⟩

/-- Around its pixel stream a Flush makes 86 events at level P: select, the window's two frames of four bytes, the
memory-write command, deselect, the callback. -/
theorem flushEvents_levelP_length :
    ((flushEvents c r buf).flatMap LcdEvent.levelP).length =
      86 + 7 * newValueWrites (flushEvents c r buf) + 3 * repeatStrobes (flushEvents c r buf) := by
  obtain ⟨hnew, hrepeat⟩ := flushEvents_counts buf hne
  have hstream := levelP_lengths _ (streamEvents_isPixelWrite (clippedRows r (clip c r) buf))
  have hhead : (([LcdEvent.lcdSel] ++ window c (clip c r) ++ [LcdEvent.lcdCmd c.cmdMemWrite]).flatMap
      LcdEvent.levelP).length = 84 := rfl
  have htail : (([.lcdDesel, .flushDone] : List LcdEvent).flatMap LcdEvent.levelP).length = 2 := rfl
  rw [hnew, hrepeat, flushEvents_nonEmpty c r buf hne, List.flatMap_append, List.flatMap_append, List.length_append,
    List.length_append, hhead, htail, hstream]
  omega

/-- A Flush writes each pixel of its window once, as a new value or a repeat. -/
theorem flushEvents_pixel_count :
    ((newValueWrites (flushEvents c r buf) + repeatStrobes (flushEvents c r buf) : Nat) : Int) =
      (clip c r).rows * (clip c r).actWidth := by
  obtain ⟨hnew, hrepeat⟩ := flushEvents_counts buf hne
  obtain ⟨⟨-, hx, -⟩, -, hy, -⟩ := clip_inside_panel hne
  have hrows : 0 ≤ (clip c r).rows := by
    unfold Clip.rows
    omega
  have hwidth : 0 ≤ (clip c r).actWidth := by
    unfold Clip.actWidth
    omega
  rw [hnew, hrepeat, streamEvents_counts, clippedRows_flatten_length, Nat.cast_mul, Int.toNat_of_nonneg hrows,
    Int.toNat_of_nonneg hwidth]

end Size

/-- Settles O34: the trace of a Flush is `flushEvents`, whose size and pixel count have a lemma each. -/
theorem flushSize : Obligations.FlushSize := by
  unfold Obligations.FlushSize
  intro r buf s t hne h
  obtain ⟨-, -, -, -, rfl⟩ := execLcdFlush_next h
  refine ⟨lcdEvents_traceF _ s, ?_, flushEvents_pixel_count buf hne⟩
  rw [State.finish_traceP, lcdEvents_traceP, List.length_append, flushEvents_levelP_length buf hne]

end Sys2Proof.Machine
end

section
/-!
PROOFS. The statements on the touch sampler (42_touch_sampler.md): one exchange at level P (R193), TCH.DENOISE and what its
readings determine (R199, R203, R204), the paths of TCH.POLL (R206 to R211), the default profile (R212).
-/

namespace Sys2Proof.Machine

/-! ### One exchange (R109, R190, R193) -/

/-- The command phase has five events a bit. -/
theorem commandEvents_length (code : Byte) : ((commandBits code).flatMap commandBit).length = 40 := by
  simp [commandBits, commandBit, List.length_flatMap, Function.comp_def]

/-- Response clocks have five events each, and one more where `T_DI` is sampled (R193, R195). -/
theorem responseClocks_length (c : Config) (sample : Nat → EventP) (ks : List Nat) :
    (ks.flatMap fun k => responseClock ++ (if sampled c k then [sample k] else [])).length =
      5 * ks.length + ks.countP (sampled c) := by
  induction ks with
  | nil => rfl
  | cons k ks ih =>
    rw [List.flatMap_cons, List.length_append, ih, List.countP_cons, List.length_append, List.length_cons]
    have hclock : responseClock.length = 5 := rfl
    split <;> simp only [List.length_cons, List.length_nil] <;> omega

/-- The size of an exchange: eight command bits, `T_DO` low, sixteen clocks, twelve samples (R109, R193). -/
theorem exchangeEvents_length {c : Config} (hskip : c.respSkip ≤ 4) (code : Byte) (r : Raw) :
    ((TchEvent.tchXchg code r).levelP c).length = 133 := by
  have hresponse : (responseEvents c r).length = 5 * 16 + 12 := by
    rw [responseEvents, responseClocks_length, sampled_twelve c hskip, List.length_range']
  rw [TchEvent.levelP, List.length_append, List.length_append, commandEvents_length, hresponse]
  rfl

/-- The command bits written out, most significant first (R108, R193). -/
theorem commandEvents_eq (code : Byte) :
    (commandBits code).flatMap commandBit =
      (List.range 8).flatMap fun j => [.set .tDo (code.getLsbD (7 - j)), .spin .tTouchBit, .set .tClk true,
        .spin .tTouchBit, .set .tClk false] := by
  rw [commandBits, List.flatMap_map]
  rfl

/-- The response clocks written out, the test of R109 as a proposition. -/
theorem responseEvents_eq (c : Config) (r : Raw) :
    responseEvents c r =
      (List.range' 1 16).flatMap fun k => [.spin .tTouchBit, .set .tClk true, .spin .tTouchBit, .set .tClk false,
        .spin .tTouchBit] ++ (if c.respSkip < k ∧ k ≤ c.respSkip + 12 then
          [.get .tDi (r.getLsbD (c.respSkip + 12 - k))] else []) := by
  simp only [responseEvents, responseClock, sampled, Bool.and_eq_true, decide_eq_true_eq]

/-- An exchange writes the clock, the data-out line, the answers and the traces; its working registers are dead after it
(R190, R193). -/
theorem exchange_state (code : Byte) (s : State) :
    (exchange code s).2 =
      { s with pin := { s.pin with tClk := some false, tDo := some false }, work := { s.work with xchg := none },
               tdi := (exchange code s).2.tdi, asked := (exchange code s).2.asked,
               traceF := (exchange code s).2.traceF, traceP := (exchange code s).2.traceP } := by
  have hframe := exchange_frame code s
  obtain ⟨hcs, hclk, hdo⟩ := exchange_pins code s
  exact State.ext_fields hframe.cal hframe.ori hframe.tdim hframe.prevPressed hframe.lcdReady hframe.tchReady hframe.busy
    (exchange_fsm code s) (hframe.lcdPins.trans (by rw [hcs, hclk, hdo])) hframe.latch (exchange_work code s) hframe.cfg
    hframe.calls rfl (exchange_rdy code s) rfl hframe.result rfl rfl hframe.delivered

/-- Settles O38: the traces are those of `exchange_run`, the events counted by `exchangeEvents_length`. -/
theorem exchangeProtocol : Obligations.ExchangeProtocol := by
  unfold Obligations.ExchangeProtocol
  intro code s hskip r t
  have htraceP := exchange_traceP code s hskip
  refine ⟨exchange_traceF code s, ?_, ?_, exchange_state code s⟩
  · rw [htraceP, TchEvent.levelP, commandEvents_eq, responseEvents_eq]
    simp only [List.append_assoc]
    rfl
  · rw [htraceP, List.length_append, exchangeEvents_length hskip]

/-! ### TCH.DENOISE (R199, R203, R204) -/

/-- Settles O40: `execTchDenoise_ok`, the run between select and deselect writing the touch part alone. -/
theorem denoiseResult : Obligations.DenoiseResult := by
  unfold Obligations.DenoiseResult
  intro ch s hbusy hready hN
  obtain ⟨xs, v, u, hxs, hrun, hcs, hexec⟩ := execTchDenoise_ok ch hbusy hready hN
  exact ⟨xs, v, _, hexec, hxs, rfl, hrun.traceF, hcs, hrun.part_same _⟩

/-- A Denoise makes no reading after its last check: that check passed, or it was the last allowed (R199, R203). -/
theorem IsDenoise.no_more {c : Config} {xs zs : List Raw} {v w : Raw} (hxs : IsDenoise c xs v)
    (hys : IsDenoise c (xs ++ zs) w) : zs = [] := by
  by_contra hne
  have hpos := List.length_pos_iff.mpr hne
  have hfills := hxs.fills
  have hbounded := hys.bounded
  have hfailed := hys.failed (xs.length - c.ringN)
  rw [List.length_append] at hbounded hfailed
  rw [windowOk_append c xs zs _ (by omega)] at hfailed
  rcases hxs.last with hpassed | hlast
  · rw [hfailed (by omega)] at hpassed
    cases hpassed
  · omega

/-- Settles O41: the longer run has no further reading (`IsDenoise.no_more`), and the result is the mean of one window. -/
theorem denoiseDeterminedByReadings : Obligations.DenoiseDeterminedByReadings := by
  unfold Obligations.DenoiseDeterminedByReadings
  rintro c xs _ zs v w hxs hys rfl
  obtain rfl := hxs.no_more hys
  rw [List.append_nil] at hys ⊢
  exact ⟨rfl, BitVec.eq_of_toNat_eq (hxs.mean.trans hys.mean.symm)⟩

/-- Settles O44: `denoise_supplied` inside the brackets of a direct issue. -/
theorem equalReadingsConvergeAtOnce : Obligations.EqualReadingsConvergeAtOnce := by
  unfold Obligations.EqualReadingsConvergeAtOnce
  intro ch s r rest hbusy hready hN hskip htdi
  obtain ⟨hval, hleft, hbody⟩ := denoise_supplied ch (tchSel (s.setBusy true)) r rest hN hskip htdi
  obtain ⟨u, hrun, -, hutdi, hexec⟩ := bracketed_spec hbusy hready hbody
  rw [hval] at hexec
  exact ⟨_, hexec, rfl, hutdi.trans hleft, hrun.traceF⟩

/-! ### TCH.POLL (R206 to R211) -/

/-- Settles O45: the first check takes the supplied answer, and the poll ends there. -/
theorem pollWithoutContact : Obligations.PollWithoutContact := by
  unfold Obligations.PollWithoutContact
  intro s rest hbusy hready hrdy
  have hsample : sampleRdy ((s.setBusy true).setPollStage .firstCheck) =
      (false, ((s.setBusy true).setPollStage .firstCheck).setRdy rest) := sampleRdy_supplied _ false rest hrdy
  have hrun : exec .tchPoll s = pollReleased (tchReadySample ((s.setBusy true).setPollStage .firstCheck)).2 := by
    change execTchPoll s = _
    rw [execTchPoll, issue_idle _ _ hbusy, State.setBusy_tchReady, hready, tchReadySample, hsample]
    rfl
  rw [hrun, tchReadySample, hsample]
  refine congrArg Host.Outcome.next ?_
  apply State.ext_fields <;> simp [hbusy, Pins.apply, releasedEvent]

/-- Settles O46: the contact case of `execTchPoll_cases` for the two supplied answers. -/
theorem pollWithContact : Obligations.PollWithContact := by
  unfold Obligations.PollWithContact
  intro s b rest hbusy hready hN hrdy
  obtain ⟨first, u, hfirst, hcase⟩ := execTchPoll_cases hbusy hready hN
  obtain rfl : first = true := hfirst true _ hrdy
  rw [if_pos rfl] at hcase
  obtain ⟨xs, ys, rx, ry, r, second, hxs, hys, hrun, hcs, hsecond, hexec⟩ := hcase
  obtain ⟨rfl, hleft⟩ := hsecond true b rest hrdy
  exact ⟨xs, ys, rx, ry, r, _, hexec, hxs, hys, hrun.traceF, rfl, hleft, hcs, hrun.part _ _⟩

/-- A pixel is inside its dimension (R237). -/
theorem applyCal_lt (v : Raw) (scale offset : Word) {d : Nat} (hd : 1 ≤ d) : applyCal v scale offset d < d := by
  unfold applyCal clampInt
  omega

/-- Settles O47: by the cases of the two checks, the coordinates bounded by `applyCal_lt`. -/
theorem pollEvent : Obligations.PollEvent := by
  unfold Obligations.PollEvent
  intro s hbusy hready hN hx hy
  obtain ⟨first, u, -, hcase⟩ := execTchPoll_cases hbusy hready hN
  cases first with
  | false =>
    rw [if_neg Bool.false_ne_true] at hcase
    obtain ⟨-, -, hexec⟩ := hcase
    exact ⟨_, _, _, hexec, rfl, rfl, rfl, rfl, rfl, rfl⟩
  | true =>
    rw [if_pos rfl] at hcase
    obtain ⟨xs, ys, rx, ry, r, second, -, -, -, -, -, hexec⟩ := hcase
    cases second with
    | false => exact ⟨_, _, _, hexec, rfl, rfl, rfl, rfl, rfl, rfl⟩
    | true => exact ⟨_, _, _, hexec, rfl, rfl, rfl, _, _, rfl, rfl, applyCal_lt _ _ _ hx, applyCal_lt _ _ _ hy, rfl⟩

/-- Every reading is an exchange. -/
theorem readings_exchanges (c : Config) (ch : Channel) (xs : List Raw) :
    ((readings c ch xs).map EventF.tch).countP isExchange = xs.length := by
  rw [readings, List.map_map, List.countP_map]
  exact List.countP_eq_length.mpr fun _ _ => rfl

/-- The events of a poll with contact, in a session with the readings `xs` and `ys` (R206). -/
theorem contactEvents_counts (c : Config) (xs ys : List Raw) (r : Raw) (b : Bool) :
    let es := ([TchEvent.tchReady true, .tchSel] ++ readings c .x xs ++ readings c .y ys ++
      [TchEvent.tchXchg c.cmdTouchPd r, TchEvent.tchReady b, TchEvent.tchDesel]).map EventF.tch
    es.countP isExchange = xs.length + ys.length + 1 ∧ es.length = xs.length + ys.length + 5 := by
  have hhead : ([TchEvent.tchReady true, .tchSel].map EventF.tch).countP isExchange = 0 := rfl
  have htail : ([TchEvent.tchXchg c.cmdTouchPd r, .tchReady b, .tchDesel].map EventF.tch).countP isExchange = 1 := rfl
  constructor
  · simp only [List.map_append, List.countP_append, readings_exchanges, hhead, htail]
    omega
  · simp [readings]
    omega

/-- Settles O48: the exchanges are the readings of the two Denoise, each within its bounds (R203), and the power-down. -/
theorem pollExchangeCount : Obligations.PollExchangeCount := by
  unfold Obligations.PollExchangeCount
  intro s t hN hM hexec
  obtain ⟨hbusy, hready, -⟩ := execTchPoll_shape hexec
  obtain ⟨first, u, -, hcase⟩ := execTchPoll_cases hbusy hready hN
  cases first with
  | false =>
    rw [if_neg Bool.false_ne_true, hexec] at hcase
    obtain ⟨hrun, -, hnext⟩ := hcase
    cases hnext
    exact ⟨_, hrun.traceF, .inl ⟨rfl, rfl⟩⟩
  | true =>
    rw [if_pos rfl, hexec] at hcase
    obtain ⟨xs, ys, rx, ry, r, second, hxs, hys, hrun, -, -, hnext⟩ := hcase
    cases hnext
    obtain ⟨hcount, hlength⟩ := contactEvents_counts s.cfg xs ys r second
    refine ⟨_, hrun.traceF, .inr ?_⟩
    rw [hcount, hlength]
    have hxlo := hxs.fills
    have hxhi := hxs.bounded
    have hylo := hys.fills
    have hyhi := hys.bounded
    omega

/-! ### The default profile (R113, R212) -/

theorem defaultScale_toNat {d : Nat} (hd : d ≤ 65536) : (defaultScale d).toNat = d * 16 := by
  rw [defaultScale_eq, BitVec.toNat_ofNat]
  omega

/-- The default profile maps the 4096 raw values evenly onto the axis; the clamp never acts (R212, R234). -/
theorem applyCal_defaultScale (v : Raw) {d : Nat} (hd : d ≤ 65536) :
    applyCal v (defaultScale d) 0#32 d = v.toNat * d / 4096 := by
  have hshift : v.toNat * (d * 16) / 65536 = v.toNat * d / 4096 := by
    rw [← Nat.mul_assoc]
    omega
  have hbelow : v.toNat * d ≤ 4095 * d := Nat.mul_le_mul_right d (by omega)
  simp only [applyCal, mapWork, defaultScale_toNat hd, hshift, clampInt, BitVec.toInt_zero]
  generalize v.toNat * d = x at *
  omega

/-- Settles O50: both endpoints are `applyCal_defaultScale`. -/
theorem defaultProfileSpansTheAxis : Obligations.DefaultProfileSpansTheAxis := by
  unfold Obligations.DefaultProfileSpansTheAxis
  intro d hpos hd
  have htop : applyCal 4095#12 (defaultScale d) 0#32 d = 4095 * d / 4096 := applyCal_defaultScale 4095#12 hd
  refine ⟨defaultScale_toNat hd, ?_, htop, fun hsmall => ?_⟩
  · rw [applyCal_defaultScale 0#12 hd, BitVec.toNat_zero, Nat.zero_mul, Nat.zero_div]
  · rw [htop]
    omega

end Sys2Proof.Machine
end

section
/-!
PROOFS. The statements on the coordinate mapper (43_coordinate_mapper.md): MAP.ORIENT and the flags that undo it (R231 to
R233), MAP.APPLYCAL (R234 to R237), MAP.CALIBRATE and what a calibration achieves (R238, R239).
-/

namespace Sys2Proof.Machine

/-- An operation that completes on an idle block leaves it idle: `busy` is in the frame (R29, R260). -/
theorem finish_idle {s : State} (hbusy : s.busy = false) (r : Result) :
    s.finish r = { s with fsm := .idle, work := .idle, result := r } := by
  rw [State.finish, ← hbusy]

/-! ### MAP.ORIENT (R231 to R233) -/

/-- Reversing a RAW axis, or not, is exact (R231). -/
theorem reversed_ofNat (r : Bool) {v : Nat} (hv : v ≤ 4095) :
    (if r then mirror (BitVec.ofNat 12 v) else BitVec.ofNat 12 v) = BitVec.ofNat 12 (if r then 4095 - v else v) := by
  rw [mirror_ofNat v hv, ← apply_ite]

/-- Settles O51: past its check MAP.ORIENT is `orient`, whose flags are the low bits (`oriOf_bits`) and whose reversal is
exact on a RAW (`reversed_ofNat`). -/
theorem mapOrientResult : Obligations.MapOrientResult := by
  unfold Obligations.MapOrientResult
  intro x y f s hbusy hx hy a b
  have hraw : (rawOk x && rawOk y) = true := by simp [rawOk, hx, hy]
  have hrun : exec (.mapOrient x y f) s = .next (s.finish (.rawPair
      (orient (BitVec.ofNat 12 x) (BitVec.ofNat 12 y) (oriOf f)).1
      (orient (BitVec.ofNat 12 x) (BitVec.ofNat 12 y) (oriOf f)).2)) := by
    change execMapOrient x y f s = _
    rw [execMapOrient, issue_idle _ _ hbusy, hraw]
    rfl
  have ha : a ≤ 4095 := by unfold a; split <;> assumption
  have hb : b ≤ 4095 := by unfold b; split <;> assumption
  obtain ⟨hswap, hrevX, hrevY⟩ := oriOf_bits f
  rw [hrun, finish_idle hbusy, orient, hswap, hrevX, hrevY, ← apply_ite, ← apply_ite, reversed_ofNat _ ha,
    reversed_ofNat _ hb]

theorem mirror_mirror (v : Raw) : mirror (mirror v) = v := sub_sub_cancel _ v

/-- Flags undo `f` when they swap as it does and reverse what it reversed, on the axis the swap brings it back to (R233). -/
theorem orient_undo (x y : Raw) {f g : Ori} (hswap : swapXY g = swapXY f)
    (hrevX : reverseX g = if swapXY f then reverseY f else reverseX f)
    (hrevY : reverseY g = if swapXY f then reverseX f else reverseY f) :
    orient (orient x y f).1 (orient x y f).2 g = (x, y) := by
  have hcancel : ∀ (r : Bool) (v : Raw),
      (if r then mirror (if r then mirror v else v) else (if r then mirror v else v)) = v := by
    intro r v
    cases r
    · rfl
    · exact mirror_mirror v
  simp only [orient, hswap, hrevX, hrevY]
  cases swapXY f
  · exact Prod.ext (hcancel _ x) (hcancel _ y)
  · exact Prod.ext (hcancel _ x) (hcancel _ y)

/-- Settles O52: the two quarter turns are computed; every other flag value, and the last column for all, meets the
condition of `orient_undo`. -/
theorem orientComposition : Obligations.OrientComposition := by
  unfold Obligations.OrientComposition
  intro x y f p
  constructor
  · split
    next hquarter =>
      rcases hquarter with rfl | rfl
      · rfl
      · rfl
    next hother =>
      have hself : reverseX f = (if swapXY f then reverseY f else reverseX f) ∧
          reverseY f = (if swapXY f then reverseX f else reverseY f) := by
        revert f
        decide
      exact orient_undo x y rfl hself.1 hself.2
  · have hinverse : ∀ f : Ori, let g := if f = 3#3 then 5#3 else if f = 5#3 then 3#3 else f
        swapXY g = swapXY f ∧ reverseX g = (if swapXY f then reverseY f else reverseX f) ∧
          reverseY g = (if swapXY f then reverseX f else reverseY f) := by decide
    obtain ⟨hswap, hrevX, hrevY⟩ := hinverse f
    exact orient_undo x y hswap hrevX hrevY

/-! ### MAP.APPLYCAL (R234 to R237) -/

theorem raw_toNat {v : Nat} (hv : v ≤ 4095) : (BitVec.ofNat 12 v).toNat = v :=
  (BitVec.toNat_ofNat ..).trans (Nat.mod_eq_of_lt (by omega))

/-- The formula of R234 on a reading, in integers throughout. -/
theorem applyCal_ofNat {v : Nat} (hv : v ≤ 4095) (scale offset : Word) (d : Nat) :
    applyCal (BitVec.ofNat 12 v) scale offset d =
      (min (max ((v : Int) * scale.toNat / 65536 - offset.toInt) 0) ((d : Int) - 1)).toNat := by
  simp only [applyCal, clampInt, mapWork, raw_toNat hv]
  push_cast
  rfl

/-- Settles O53: past its check MAP.APPLYCAL is `applyCal`, by `applyCal_ofNat` the formula. -/
theorem mapApplycalResult : Obligations.MapApplycalResult := by
  unfold Obligations.MapApplycalResult
  intro v scale offset d s hbusy hv hpos hd
  have hformat : (rawOk v && dimOk d) = true := by simp [rawOk, dimOk, hv, hpos, hd]
  have hrun : exec (.mapApplycal v scale offset d) s =
      .next (s.finish (.pixel (applyCal (BitVec.ofNat 12 v) scale offset d))) := by
    change execMapApplycal v scale offset d s = _
    rw [execMapApplycal, issue_idle _ _ hbusy, hformat]
    rfl
  rw [hrun, finish_idle hbusy, applyCal_ofNat hv]

/-- Settles O54: the bound is `applyCal_lt`, the order `applyCal_mono`. -/
theorem applycalInRangeAndMonotone : Obligations.ApplycalInRangeAndMonotone := by
  unfold Obligations.ApplycalInRangeAndMonotone
  intro v w scale offset d hpos
  exact ⟨applyCal_lt v scale offset hpos, applyCal_mono v w scale offset d⟩

/-! ### MAP.CALIBRATE (R238 to R240) -/

theorem axisOk_iff (low high m d : Nat) : axisOk low high m d = true ↔ low < high ∧ 2 * m + 1 ≤ d := by
  simp [axisOk]

/-- MAP.CALIBRATE completes exactly past its checks (R240), and leaves the profile and its completion. -/
theorem execMapCalibrate_next_iff {xl xh yl yh : Nat} {m : Half} {s t : State} :
    execMapCalibrate xl xh yl yh m s = .next t ↔
      s.busy = false ∧ s.tchReady = true ∧ xh ≤ 4095 ∧ yh ≤ 4095 ∧ axisOk xl xh m.toNat s.tdim.x = true ∧
        axisOk yl yh m.toNat s.tdim.y = true ∧
        t = (s.setCal (calibration xl xh yl yh m.toNat s.tdim)).finish .nothing := by
  constructor
  · intro h
    have ht := execMapCalibrate_next h
    obtain ⟨hbusy, h⟩ := issue_next h
    obtain ⟨hready, h⟩ := refuseIf_next h
    obtain ⟨hraw, h⟩ := refuseIf_next h
    obtain ⟨haxes, -⟩ := refuseIf_next h
    simp only [Bool.not_eq_false', Bool.and_eq_true, rawOk, decide_eq_true_eq] at hready hraw haxes
    obtain ⟨⟨⟨-, hxh⟩, -⟩, hyh⟩ := hraw
    exact ⟨hbusy, hready, hxh, hyh, haxes.1, haxes.2, ht⟩
  · rintro ⟨hbusy, hready, hxh, hyh, hx, hy, rfl⟩
    have hxlow := ((axisOk_iff _ _ _ _).1 hx).1
    have hylow := ((axisOk_iff _ _ _ _).1 hy).1
    have hraw : (rawOk xl && rawOk xh && rawOk yl && rawOk yh) = true := by
      simp only [rawOk, Bool.and_eq_true, decide_eq_true_eq]
      omega
    rw [execMapCalibrate, issue_idle _ _ hbusy, State.setBusy_tchReady, hready, hraw, State.setBusy_tdim, hx, hy]
    rfl

/-- A calibrated axis passes its check, and its two registers hold the values of R238 without overflow (R243). -/
theorem calibration_registers {low high m d : Nat} (hhigh : high ≤ 4095) (hlow : low < high) (hm : 2 * m ≤ d - 1)
    (hd : dimOk d = true) (hm16 : m < 65536) :
    let scale := BitVec.ofNat 32 (calScale (spanWork low high m d))
    let offset := BitVec.ofInt 32 (calOffset low (calScale (spanWork low high m d)) m)
    axisOk low high m d = true ∧ scale.toNat = (d - 1 - 2 * m) * 65536 / (high - low) ∧
      offset.toInt = ((low * scale.toNat / 65536 : Nat) : Int) - m := by
  intro scale offset
  obtain ⟨hscale, hfits, hok, hoffset⟩ := calibration_axis low high m d hhigh hlow hm hd hm16
  have hreg : scale.toNat = calScale (spanWork low high m d) := (BitVec.toNat_ofNat ..).trans (Nat.mod_eq_of_lt hfits)
  rw [hreg]
  exact ⟨hok, hscale, hoffset⟩

/-- Settles O55: past its checks MAP.CALIBRATE writes `calibration`, each axis of which fits its registers. -/
theorem mapCalibrateResult : Obligations.MapCalibrateResult := by
  unfold Obligations.MapCalibrateResult
  intro xl xh yl yh m s hbusy hready hxh hyh hx hy hmx hmy hdx hdy
  obtain ⟨hokX, hscaleX, hoffsetX⟩ := calibration_registers hxh hx hmx hdx m.isLt
  obtain ⟨hokY, hscaleY, hoffsetY⟩ := calibration_registers hyh hy hmy hdy m.isLt
  have hrun := execMapCalibrate_next_iff.2 ⟨hbusy, hready, hxh, hyh, hokX, hokY, rfl⟩
  rw [finish_idle ((State.setCal_busy ..).trans hbusy)] at hrun
  exact ⟨_, hrun, hscaleX, hscaleY, hoffsetX, hoffsetY⟩

/-- Settles O56: a calibration that completed passed the checks of R240, and on each axis `calibration_hits` says where its
readings land. -/
theorem calibrationHitsTheMargins : Obligations.CalibrationHitsTheMargins := by
  unfold Obligations.CalibrationHitsTheMargins
  intro xl xh yl yh m s t hdx hdy hexec fx fy
  obtain ⟨-, -, hxh, hyh, hokX, hokY, rfl⟩ := execMapCalibrate_next_iff.1 hexec
  obtain ⟨hx, hmx⟩ := (axisOk_iff _ _ _ _).1 hokX
  obtain ⟨hy, hmy⟩ := (axisOk_iff _ _ _ _).1 hokY
  obtain ⟨hlowX, hhighX⟩ := calibration_hits xl xh m.toNat s.tdim.x hxh hx (by omega) hdx m.isLt
  obtain ⟨hlowY, hhighY⟩ := calibration_hits yl yh m.toNat s.tdim.y hyh hy (by omega) hdy m.isLt
  refine ⟨hlowX, hhighX, hlowY, hhighY, fun v w hvw hw => ?_⟩
  have horder : (BitVec.ofNat 12 v).toNat ≤ (BitVec.ofNat 12 w).toNat := by
    rwa [raw_toNat (hvw.trans hw), raw_toNat hw]
  exact ⟨applyCal_mono _ _ _ _ _ horder, applyCal_mono _ _ _ _ _ horder⟩

end Sys2Proof.Machine
end

section
/-!
PROOFS. The statements on the host interface (44_host_interface.md): a step takes the next call and runs what it decodes to
(R260), no operation runs inside another (R264, R283), SYS.TICK changes nothing (R263).
-/

namespace Sys2Proof.Machine

/-! ### The next call (R260) -/

theorem step_of_no_call {s : State} (h : s.calls = []) : step s = .next s := by
  rw [step, h]

theorem withCalls_self {s : State} {cs : List Call} (h : s.calls = cs) : { s with calls := cs } = s := by
  subst h
  rfl

/-- Settles O6: the rules of a step (`step_of_decode_ok`, `step_of_decode_error`) at the calls the state already holds. -/
theorem stepRunsTheDecodedCall : Obligations.StepRunsTheDecodedCall := by
  unfold Obligations.StepRunsTheDecodedCall
  refine fun s => ⟨step_of_no_call, fun call rest i hcalls hdecode => ?_, fun call rest why hcalls hdecode => ?_⟩
  · have hrun := step_of_decode_ok (rest := rest) hdecode
    rwa [withCalls_self hcalls] at hrun
  · have hrun := step_of_decode_error (rest := rest) hdecode
    rwa [withCalls_self hcalls] at hrun

/-! ### No operation inside another (R264, R283) -/

/-- Every operation is issued before anything else, and issue refuses while another runs (R283). -/
theorem exec_operation_busy {i : Instr} {s : State} (hi : isOperation i = true) (hbusy : s.busy = true) :
    exec i s = .refused .busy := by
  cases i with
  | btpPulse | btpWlb | lcdInit | lcdFlush | tchInit | tchReadch | tchDenoise | tchPoll | mapOrient | mapApplycal
  | mapCalibrate | sysTick => exact issue_busy s (fun _ => _) hbusy
  | _ => cases hi

/-- The buffer test of LCD.FLUSH is the row `BufferTooShort` of the table (R276, R277). -/
theorem bufferShort_lcdFlush_iff (r : Region) (buf : List Half) (c : Config) :
    bufferShort (.lcdFlush r buf) c = false ↔ (clip c r).isEmpty = true ∨ bufferLongEnough r (clip c r) buf = true := by
  rw [clip_isEmpty_iff, bufferShort, bufferLongEnough, bufIndex, decide_eq_false_iff_not, decide_eq_true_iff]
  omega

theorem signalDone_stuck {s : State} (h : s.cfg.callback = .neverReturns) :
    signalDone s = .fault .callbackNeverReturns :=
  (signalDone_cases s).elim (fun h' => absurd h h'.1) And.right

/-- Past its refusals a Flush whose callback never returns is stuck, on the empty path too (V17). -/
theorem execLcdFlush_stuck {r : Region} {buf : List Half} {s : State} (hbusy : s.busy = false) (hready : s.lcdReady = true)
    (hcallback : s.cfg.callback = .neverReturns)
    (hbuf : (clip s.cfg r).isEmpty = true ∨ bufferLongEnough r (clip s.cfg r) buf = true) :
    execLcdFlush r buf s = .fault .callbackNeverReturns := by
  rw [execLcdFlush_eq r buf s hbusy, hready, Bool.not_true, refuseIf_false]
  by_cases hempty : (clip s.cfg r).isEmpty = true
  · rw [if_pos hempty]
    exact signalDone_stuck hcallback
  · obtain ⟨wk, hstream⟩ := flushStream_eq r buf (clip s.cfg r) (s.setBusy true)
    rw [if_neg hempty, hbuf.resolve_left hempty, Bool.not_true, refuseIf_false, hstream]
    exact signalDone_stuck (by rwa [State.setWork_cfg, lcdEvents_cfg])

/-- Settles O17: the block is still busy after the events of a Flush, so what its callback issues is refused; the Flush is
that of O29, or stuck. -/
theorem noReentrancy : Obligations.NoReentrancy := by
  unfold Obligations.NoReentrancy
  refine ⟨fun i s hbusy hi => exec_operation_busy hi hbusy, fun r buf s hbusy hready hshort => ?_⟩
  have hbuf := (bufferShort_lcdFlush_iff r buf s.cfg).1 hshort
  refine ⟨fun hissues => ⟨fun i hi => exec_operation_busy hi (lcdEvents_busy _ _), ?_⟩, fun hnever => ?_⟩
  · have hreturns : s.cfg.callback ≠ .neverReturns := by
      rw [hissues]
      decide
    exact flushRunsThePseudocode r buf s hbusy hready hreturns hbuf
  · exact execLcdFlush_stuck hbusy hready hnever hbuf

/-! ### SYS.TICK (R263) -/

theorem execSysTick_idle {s : State} (hbusy : s.busy = false) : execSysTick s = .next (s.finish .nothing) := by
  rw [execSysTick, issue_idle _ _ hbusy, complete, finish_setBusy]

/-- At an operation boundary, completing with the result already held changes nothing (R262). -/
theorem finish_quiescent {s : State} (hquiet : Quiescent s) : s.finish s.result = s := by
  obtain ⟨hbusy, hfsm, hwork⟩ := hquiet
  rw [State.finish, ← hbusy, ← hfsm, ← hwork]

/-- Settles O57: SYS.TICK is issue and completion alone. -/
theorem sysTickIsIdentity : Obligations.SysTickIsIdentity := by
  unfold Obligations.SysTickIsIdentity
  intro s hbusy
  have hrun : exec .sysTick s = .next (s.finish .nothing) := execSysTick_idle hbusy
  refine ⟨?_, fun hquiet hresult => ?_⟩
  · rw [hrun, finish_idle hbusy]
  · rw [hrun, ← hresult, finish_quiescent hquiet]

end Sys2Proof.Machine
end

section
/-!
PROOFS. The statement on refusals (60_exceptions.md): an instruction is refused by the first condition of the table that
holds (R276, R278), and completes where none holds (R270, R277).
-/

namespace Sys2Proof.Machine

/-! ### Reserved codes and the touch family (R114, R190) -/

theorem refusalOf_reserved {i : Instr} (hi : isReserved i = true) (s : State) : refusalOf i s = some .reservedOp :=
  if_pos hi

/-- The rows of the touch family are its two checks (R276). -/
theorem refusalOf_asks {i : Instr} (hi : asksEnvironment i = true) (s : State) : refusalOf i s = touchRefusal s := by
  cases i <;> cases hi <;> rfl

/-! ### Bus writes: the rows of the bus, then `LatchUnknown` for a strobe that repeats (R103, R131, R132, R136) -/

/-- Why a bus write is refused for the state of the bus, if it is (R276, R278); past that, `rest` decides. -/
def busRefusal (s : State) (rest : Option Refusal) : Option Refusal :=
  if s.busy then some .busy
  else if !s.lcdReady then some .notInitialised
  else if decide (s.pin.lCs ≠ some true) then some .notSelected
  else rest

theorem refusalOf_frame {i : Instr} {s : State} {f : Byte × List Byte} (h : lcdFrameOf s.cfg i = some f) :
    refusalOf i s = busRefusal s none := by
  cases i <;> cases h <;> rfl

theorem lcdFrame_agree (code : Byte) (args : List Byte) (s : State) : Agree (busRefusal s none) (lcdFrame code args s) :=
  .bus (.go _)

theorem exec_frame_agree {i : Instr} {s : State} {f : Byte × List Byte} (h : lcdFrameOf s.cfg i = some f) :
    Agree (refusalOf i s) (exec i s) := by
  rw [refusalOf_frame h, exec_frame h]
  exact lcdFrame_agree f.1 f.2 s

theorem execBtpPulse_agree (s : State) : Agree (refusalOf .btpPulse s) (execBtpPulse s) :=
  .bus (.refuse fun _ => .go _)

theorem execBtpWlb_agree (v : Half) (s : State) : Agree (refusalOf (.btpWlb v) s) (execBtpWlb v s) :=
  .bus (.go _)

theorem execLcdPix_agree (p : Half) (s : State) : Agree (refusalOf (.lcdPix p) s) (execLcdPix p s) :=
  .bus (.go _)

theorem execLcdRpt_agree (s : State) : Agree (refusalOf .lcdRpt s) (execLcdRpt s) :=
  .bus (.refuse fun _ => .go _)

/-! ### LCD.INIT and LCD.FLUSH (R153, R159, R160) -/

theorem refusalOf_lcdInit (s : State) :
    refusalOf .lcdInit s =
      if s.busy then some .busy else if s.lcdReady then some .alreadyInitialised else none := rfl

theorem execLcdInit_agree (s : State) : Agree (refusalOf .lcdInit s) (execLcdInit s) := by
  rw [refusalOf_lcdInit]
  exact .issue fun _ => .refuse fun _ => .go _

/-- Past `NotInitialised`, a Flush whose callback returns is refused only for a short buffer, and for that only on the
non-empty path (R159, R278). -/
theorem flushBody_agree (r : Region) (buf : List Half) {s : State} (hcallback : s.cfg.callback ≠ .neverReturns) :
    Agree (if bufferShort (.lcdFlush r buf) s.cfg then some .bufferTooShort else none)
      (if (clip s.cfg r).isEmpty then signalDone s
        else refuseIf (!bufferLongEnough r (clip s.cfg r) buf) .bufferTooShort
          (signalDone (flushStream r buf (clip s.cfg r) s))) := by
  have hrun := flush_body r buf s hcallback
  have hshort := bufferShort_lcdFlush_iff r buf s.cfg
  by_cases hempty : (clip s.cfg r).isEmpty = true
  · rw [if_pos hempty] at hrun ⊢
    rw [hshort.2 (.inl hempty), hrun]
    exact .go _
  · rw [if_neg hempty] at hrun ⊢
    have hrow : bufferShort (.lcdFlush r buf) s.cfg = !bufferLongEnough r (clip s.cfg r) buf := by
      rw [or_iff_right hempty] at hshort
      rw [Bool.eq_iff_iff, ← not_iff_not, Bool.not_eq_true, hshort, Bool.not_eq_true', Bool.not_eq_false]
    rw [hrow, hrun]
    exact .refuse fun _ => .go _

theorem execLcdFlush_agree (r : Region) (buf : List Half) {s : State} (hcallback : s.cfg.callback ≠ .neverReturns) :
    Agree (refusalOf (.lcdFlush r buf) s) (execLcdFlush r buf s) :=
  .issue fun _ => .refuse fun _ => flushBody_agree r buf (s := s.setBusy true) hcallback

/-! ### TCH.INIT, the coordinate mapper and SYS.TICK (R212, R231, R234, R240, R263) -/

theorem refusalOf_tchInit (x y : Nat) (f : Byte) (s : State) :
    refusalOf (.tchInit x y f) s =
      if s.busy then some .busy
      else if s.tchReady then some .alreadyInitialised
      else if !(dimOk x && dimOk y) then some .operandRange
      else none := rfl

theorem execTchInit_agree (x y : Nat) (f : Byte) (s : State) :
    Agree (refusalOf (.tchInit x y f) s) (execTchInit x y f s) := by
  rw [refusalOf_tchInit]
  exact .issue fun _ => .refuse fun _ => .refuse fun _ => .go _

theorem refusalOf_mapOrient (x y : Nat) (f : Byte) (s : State) :
    refusalOf (.mapOrient x y f) s =
      if s.busy then some .busy else if !(rawOk x && rawOk y) then some .operandRange else none := rfl

theorem execMapOrient_agree (x y : Nat) (f : Byte) (s : State) :
    Agree (refusalOf (.mapOrient x y f) s) (execMapOrient x y f s) := by
  rw [refusalOf_mapOrient]
  exact .issue fun _ => .refuse fun _ => .go _

theorem refusalOf_mapApplycal (v : Nat) (scale offset : Word) (d : Nat) (s : State) :
    refusalOf (.mapApplycal v scale offset d) s =
      if s.busy then some .busy else if !(rawOk v && dimOk d) then some .operandRange else none := rfl

theorem execMapApplycal_agree (v : Nat) (scale offset : Word) (d : Nat) (s : State) :
    Agree (refusalOf (.mapApplycal v scale offset d) s) (execMapApplycal v scale offset d s) := by
  rw [refusalOf_mapApplycal]
  exact .issue fun _ => .refuse fun _ => .go _

/-- The row `CalibrationRange` is the precondition of MAP.CALIBRATE failing on an axis (R240, R276). -/
theorem calibrationOut_mapCalibrate (xl xh yl yh : Nat) (m : Half) (d : Dim) :
    calibrationOut (.mapCalibrate xl xh yl yh m) d = !(axisOk xl xh m.toNat d.x && axisOk yl yh m.toNat d.y) := by
  rw [Bool.eq_iff_iff]
  simp only [calibrationOut, Bool.or_eq_true, decide_eq_true_eq, Bool.not_eq_true', ← Bool.not_eq_true,
    Bool.and_eq_true, axisOk_iff]
  omega

theorem refusalOf_mapCalibrate (xl xh yl yh : Nat) (m : Half) (s : State) :
    refusalOf (.mapCalibrate xl xh yl yh m) s =
      if s.busy then some .busy
      else if !s.tchReady then some .notInitialised
      else if !(rawOk xl && rawOk xh && rawOk yl && rawOk yh) then some .operandRange
      else if !(axisOk xl xh m.toNat s.tdim.x && axisOk yl yh m.toNat s.tdim.y) then some .calibrationRange
      else none := by
  rw [← calibrationOut_mapCalibrate]
  rfl

theorem execMapCalibrate_agree (xl xh yl yh : Nat) (m : Half) (s : State) :
    Agree (refusalOf (.mapCalibrate xl xh yl yh m) s) (execMapCalibrate xl xh yl yh m s) := by
  rw [refusalOf_mapCalibrate]
  exact .issue fun _ => .refuse fun _ => .refuse fun _ => .refuse fun _ => .go _

theorem execSysTick_agree (s : State) : Agree (refusalOf .sysTick s) (execSysTick s) :=
  .issue fun _ => .go _

/-! ### Every instruction -/

/-- Every instruction makes the checks of its rows, in their order, and completes past them; LCD.FLUSH needs its callback
to return (R276 to R278). -/
theorem exec_agree (i : Instr) {s : State} (hcallback : s.cfg.callback ≠ .neverReturns) :
    Agree (refusalOf i s) (exec i s) := by
  cases i with
  | reservedC | reservedD | reservedE | reservedF =>
    rw [refusalOf_reserved rfl, exec_reserved rfl]
    exact .stop _
  | tchReadch | tchDenoise | tchPoll | cmdTouchX | cmdTouchY | cmdTouchPd =>
    rw [refusalOf_asks rfl]
    exact exec_asks_agree rfl s
  | btpPulse => exact execBtpPulse_agree s
  | btpWlb v => exact execBtpWlb_agree v s
  | lcdPix p => exact execLcdPix_agree p s
  | lcdRpt => exact execLcdRpt_agree s
  | lcdInit => exact execLcdInit_agree s
  | lcdFlush r buf => exact execLcdFlush_agree r buf hcallback
  | tchInit x y f => exact execTchInit_agree x y f s
  | mapOrient x y f => exact execMapOrient_agree x y f s
  | mapApplycal v scale offset d => exact execMapApplycal_agree v scale offset d s
  | mapCalibrate xl xh yl yh m => exact execMapCalibrate_agree xl xh yl yh m s
  | sysTick => exact execSysTick_agree s
  | _ => exact exec_frame_agree rfl

/-- Settles O16: the table and the checks of the meanings agree, instruction by instruction (`exec_agree`). -/
theorem refusedExactlyByTheTable : Obligations.RefusedExactlyByTheTable := by
  unfold Obligations.RefusedExactlyByTheTable
  exact fun i _ hcallback => exec_agree i hcallback

end Sys2Proof.Machine
end

section
/-!
PROOFS. The chip-select discipline of an instruction that completes (60_exceptions.md R289, 70_reset_and_hazards.md R310):
every family runs disciplined from a boundary, where neither chip-select is asserted.
-/

namespace Sys2Proof.Machine

/-! ### Work that keeps the discipline -/

/-- From `s` to `t` level P grows by events that keep the chip-select discipline from the pins of `s` on, and these events
drive the pins (R38, R310). -/
def DisciplinedRun (s t : State) : Prop :=
  ∃ es, t.traceP = s.traceP ++ es ∧ t.pin = es.foldl Pins.apply s.pin ∧ disciplined s.pin es = true

theorem DisciplinedRun.trans {s t u : State} (h : DisciplinedRun s t) (g : DisciplinedRun t u) : DisciplinedRun s u := by
  obtain ⟨es, htrace, hpin, hes⟩ := h
  obtain ⟨fs, htrace', hpin', hfs⟩ := g
  rw [hpin] at hpin' hfs
  refine ⟨es ++ fs, ?_, ?_, disciplined_append _ es fs hes hfs⟩
  · rw [htrace', htrace, List.append_assoc]
  · rw [hpin', List.foldl_append]

theorem DisciplinedRun.emitP {s : State} {es : List EventP} (h : disciplined s.pin es = true) :
    DisciplinedRun s (s.emitP es) :=
  ⟨es, rfl, rfl, h⟩

/-- Work that emits nothing, begun with the controller deselected. -/
theorem DisciplinedRun.of_same {s t : State} (hcs : s.pin.lCs ≠ some true) (htrace : t.traceP = s.traceP)
    (hpin : t.pin = s.pin) : DisciplinedRun s t :=
  ⟨[], by simp [htrace], hpin, by simp [disciplined, selectOk, hcs]⟩

/-- Level P of a script decides whether running it is disciplined (R136). -/
theorem lcdEvents_disciplinedRun {s : State} {es : List LcdEvent}
    (h : disciplined s.pin (es.flatMap LcdEvent.levelP) = true) : DisciplinedRun s (lcdEvents es s) :=
  ⟨_, lcdEvents_traceP es s, lcdEvents_pin es s, h⟩

/-! ### Touch work (R206, R213, R214) -/

section
variable {s t : State}

theorem Session.samples_disciplinedRun (h : Session sampleEvent s t) (hl : s.pin.lCs ≠ some true) :
    DisciplinedRun s t ∧ t.pin = s.pin := by
  obtain ⟨ps, htrace, hpin, hps⟩ := h.pins
  exact ⟨⟨ps, htrace, hpin, samples_disciplined ps s.pin hps hl⟩, hpin.trans (samples_pins ps s.pin hps)⟩

theorem Session.disciplinedRun (h : Session sessionEvent s t) (hl : s.pin.lCs ≠ some true)
    (ht : s.pin.tCs = some true) : DisciplinedRun s t ∧ t.pin.lCs = s.pin.lCs := by
  obtain ⟨ps, htrace, hpin, hps⟩ := h.pins
  obtain ⟨hdisc, hkeep⟩ := session_disciplined ps s.pin hps hl ht
  exact ⟨⟨ps, htrace, hpin, hdisc⟩, hpin ▸ hkeep⟩

theorem tchSel_disciplinedRun (hl : s.pin.lCs ≠ some true) : DisciplinedRun s (tchSel s) :=
  .emitP (s := s.emitF _) (by simp [disciplined, selectOk, edgeOk, Pins.apply, Pins.set, hl])

theorem tchDesel_disciplinedRun (hl : s.pin.lCs ≠ some true) : DisciplinedRun s (tchDesel s) :=
  .emitP (s := s.emitF _) (by simp [disciplined, selectOk, edgeOk, Pins.apply, Pins.set, hl])

theorem tchSetup_disciplinedRun (hl : s.pin.lCs ≠ some true) : DisciplinedRun s (tchSetup s) :=
  .emitP (s := s.emitF _) (by simp [disciplined, selectOk, edgeOk, Pins.apply, Pins.set, hl])

/-- Touch work begun with both chip-selects negated clocks the ADC only between its own select and deselect; the session
that finds the ADC selected cannot begin there. -/
theorem TouchShape.disciplinedRun (h : TouchShape s t) (hs : Deselected s) : DisciplinedRun s t := by
  obtain ⟨hl, ht⟩ := hs
  rcases h with hsamples | ⟨a, b, hsamples, hsession, rfl⟩ | ⟨hsel, -⟩
  · exact (hsamples.samples_disciplinedRun hl).1
  · obtain ⟨hready, hpin⟩ := hsamples.samples_disciplinedRun hl
    have hla : a.pin.lCs ≠ some true := by rwa [hpin]
    obtain ⟨hbody, hkeep⟩ := hsession.disciplinedRun hla (tchSel_tCs a)
    have hlb : b.pin.lCs ≠ some true := by rw [hkeep]; exact hla
    exact ((hready.trans (tchSel_disciplinedRun hla)).trans hbody).trans (tchDesel_disciplinedRun hlb)
  · exact absurd hsel ht

end

/-! ### LCD scripts (R132, R153, R166) -/

/-- LCD.INIT writes only after it has selected the controller (R153). -/
theorem initScript_disciplined (c : Config) {p : Pins} (ht : p.tCs ≠ some true) :
    disciplined p (((initHead c).flatten ++ initClear c ++ (initTail c).flatten ++ [LcdEvent.lcdDesel]).flatMap
      LcdEvent.levelP) = true := by
  obtain ⟨hmid, hshape⟩ := initSequence_shape c
  rw [hshape]
  exact disciplined_script [.pinSetup, .lcdReset, .lcdSel] _ [.lcdDesel] p ht rfl rfl hmid rfl

/-- A Flush writes nothing, or only between its select and its deselect (R159, R166). -/
theorem flushEvents_disciplined (c : Config) (r : Region) (buf : List Half) {p : Pins} (ht : p.tCs ≠ some true) :
    disciplined p ((flushEvents c r buf).flatMap LcdEvent.levelP) = true := by
  cases hempty : (clip c r).isEmpty
  · rw [flushEvents_eq_middle c r buf hempty]
    exact disciplined_script [.lcdSel] _ [.lcdDesel, .flushDone] p ht rfl rfl (flushMiddle_isWriteOrDelay c r buf) rfl
  · rw [flushEvents_empty buf hempty]
    exact disciplined_other _ p ht rfl

/-- With the controller deselected only two scripts complete, those of LCD.INIT and LCD.FLUSH: a direct bus write is refused
(R132). -/
theorem exec_lcd_deselected {i : Instr} {s t : State} {es : List LcdEvent} (hl : s.pin.lCs ≠ some true)
    (hscript : lcdScript s i = some es) (h : exec i s = .next t) :
    es = (initHead s.cfg).flatten ++ initClear s.cfg ++ (initTail s.cfg).flatten ++ [.lcdDesel] ∨
      ∃ r buf, es = flushEvents s.cfg r buf := by
  have hbus : isBusInstr i ≠ true := fun hi => hl (exec_bus hi h)
  rcases lcdScript_cases hscript with
    ⟨-, hes⟩ | ⟨r, buf, -, hes⟩ | ⟨p, rfl, -⟩ | ⟨rfl | rfl, -⟩ | ⟨v, rfl, -⟩ | ⟨f, -, -, hi⟩
  · exact .inl hes
  · exact .inr ⟨r, buf, hes⟩
  · exact absurd rfl hbus
  · exact absurd rfl hbus
  · exact absurd rfl hbus
  · exact absurd rfl hbus
  · exact absurd hi hbus

theorem lcdScript_disciplinedRun {i : Instr} {s t : State} {es : List LcdEvent} (hs : Deselected s)
    (hscript : lcdScript s i = some es) (h : exec i s = .next t) : DisciplinedRun s (lcdEvents es s) := by
  obtain ⟨hl, ht⟩ := hs
  apply lcdEvents_disciplinedRun
  rcases exec_lcd_deselected hl hscript h with rfl | ⟨r, buf, rfl⟩
  · exact initScript_disciplined s.cfg ht
  · exact flushEvents_disciplined s.cfg r buf ht

/-! ### Every instruction (R289, R310) -/

/-- An instruction that completes from deselected pins is disciplined, family by family. -/
theorem exec_disciplinedRun {i : Instr} {s t : State} (hs : Deselected s) (h : exec i s = .next t) :
    DisciplinedRun s t := by
  cases exec_completed h with
  | lcd es hscript => exact lcdScript_disciplinedRun hs hscript h
  | touch _ _ u _ _ _ hshape => exact hshape.disciplinedRun hs
  | tchInit => exact tchSetup_disciplinedRun hs.1
  | mapCalibrate => exact .of_same hs.1 rfl rfl
  | pure => exact .of_same hs.1 rfl rfl

/-- Settles O12: the invariant has both chip-selects negated, at the end as at the start (`exec_keeps_inv`); the events in
between are disciplined (`exec_disciplinedRun`). -/
theorem chipSelectDiscipline : Obligations.ChipSelectDiscipline := by
  unfold Obligations.ChipSelectDiscipline
  intro i s t hs h
  obtain ⟨es, htrace, -, hes⟩ := exec_disciplinedRun (Inv.deselected s hs) h
  exact ⟨Inv.deselected t (exec_keeps_inv hs h), es, htrace, disciplined_sound s.pin es hes⟩

end Sys2Proof.Machine
end
